-- ==== Sys2Proof/Word.lean ====
section
/-! DEFINITION. The word types of KBDRX: the byte, the 16-bit result word and the level of a pin. -/

namespace Sys2Proof

/-- An 8-bit value: a cell of RXBUF, SHREG, SCAN, a character (10_state.md R21, R23, R26). -/
abbrev Byte := BitVec 8

/-- A 16-bit value: the result word EVENT (10_state.md R30). -/
abbrev Word16 := BitVec 16

/-- The level of a pin: `false` is 0 (low), `true` is 1 (high) (00_scope.md R12). -/
abbrev Level := Bool

/-- `zext_8(b)` of a one-bit value (00_scope.md R11). -/
def zext8 (b : Level) : Byte := if b then 1 else 0

end Sys2Proof
end

