-- ==== Sys2Proof/Config.lean ====
section
/-! DEFINITION. What is fixed for one KBDRX: the constants of 00_scope.md R8 and R10, the parameters that R9 leaves
open, as a structure (`Config`) that no step changes, and the free values of the accessory's lines (60_exceptions.md
R205). -/

namespace Sys2Proof

/-- T_BIT in nanoseconds (00_scope.md R10). -/
def tBit : Nat := 104166

/-- T_HALF in nanoseconds (00_scope.md R10). -/
def tHalf : Nat := 52083

/-- T_GAP in nanoseconds (00_scope.md R10). -/
def tGap : Nat := 2000000

/-- NBITS, the data bits of a character (00_scope.md R8). -/
def nBits : Nat := 8

/-- BUF_CAP, the cells of RXBUF (00_scope.md R8). -/
def bufCap : Nat := 10

/-- PKT_LEN, the bytes of a packet (00_scope.md R8). -/
def pktLen : Nat := 3

/-- The first byte of PREAMBLE (00_scope.md R8). -/
def preamble0 : Byte := 0x15

/-- The second byte of PREAMBLE (00_scope.md R8). -/
def preamble1 : Byte := 0x35

/-- CTRL_LO, the least character the control conversion applies to (00_scope.md R8). -/
def ctrlLo : Byte := 97

/-- CTRL_HI, the greatest character the control conversion applies to (00_scope.md R8). -/
def ctrlHi : Byte := 125

/-- CTRL_SUB, what the control conversion subtracts (00_scope.md R8). -/
def ctrlSub : Byte := 96

/-- The scan code of the 'q' key, one of the two rows of KEYTAB the source gives (10_state.md R31). -/
def codeQ : Byte := 0x17

/-- The scan code of the 's' key, the other row (10_state.md R31). -/
def codeS : Byte := 0x27

/-- An entry of KEYTAB: the unshifted character, and the shifted one or its absence (10_state.md R31, D27). -/
structure KeyEntry where
  unshifted : Byte
  shifted   : Option Byte
deriving DecidableEq, Repr

/-- The parameters the source leaves open (00_scope.md R9). DESIGN CHOICE (log entry 1): they are carried in State. -/
structure Config where
  /-- The level of DATA when no character is being sent. -/
  dataIdle       : Level
  /-- The level of ATTN that means asserted. -/
  attnAssert     : Level
  /-- The level driven on REQ to mean asserted. -/
  reqAssert      : Level
  scShiftPress   : Byte
  scShiftRelease : Byte
  scCtrlPress    : Byte
  scCtrlRelease  : Byte
  scAltPress     : Byte
  scAltRelease   : Byte
  scFnPress      : Byte
  scFnRelease    : Byte
  scCaps         : Byte
  scKeyReleased  : Byte
  /-- The rows of KEYTAB, scan codes strictly rising (log entry 20). -/
  keytab         : List (Byte × KeyEntry)
deriving DecidableEq, Repr

/-- The ten dedicated scan codes (00_scope.md R9). -/
def Config.dedicated (c : Config) : List Byte :=
  [c.scShiftPress, c.scShiftRelease, c.scCtrlPress, c.scCtrlRelease, c.scAltPress, c.scAltRelease,
   c.scFnPress, c.scFnRelease, c.scCaps, c.scKeyReleased]

/-- The entry for a code among the rows of a table, or its absence (10_state.md R31). -/
def lookupRow : List (Byte × KeyEntry) → Byte → Option KeyEntry
  | [], _ => none
  | (code, e) :: rows, k => if code = k then some e else lookupRow rows k

/-- KEYTAB(k): the entry of a scan code, or absent (10_state.md R31). -/
def Config.lookup (c : Config) (k : Byte) : Option KeyEntry := lookupRow c.keytab k

/-- A FREE VALUE (log entry 27): how a line goes on where State lists no further transition of it. Source `k`, number `n`:
`some g` when the line's next change comes `g + 1` nanoseconds after the last one, `none` when it never changes again. The
accessory's behaviour is open (60_exceptions.md R205, 92_eei_decisions.md D31), so nothing is known of it. -/
opaque Config.freeGap : Nat → Nat → Option Nat

/-- CFG-T, the test configuration of 95_test_vectors.md section 0. DESIGN CHOICE (log entry 2): the configuration of
State.reset. No statement rests on it. -/
def cfgT : Config where
  dataIdle := true
  attnAssert := true
  reqAssert := true
  scShiftPress := 0x81
  scShiftRelease := 0x82
  scCtrlPress := 0x83
  scCtrlRelease := 0x84
  scAltPress := 0x85
  scAltRelease := 0x86
  scFnPress := 0x87
  scFnRelease := 0x88
  scCaps := 0x89
  scKeyReleased := 0x8A
  keytab :=
    [(0x17, ⟨0x71, some 0x51⟩), (0x27, ⟨0x73, none⟩), (0x30, ⟨0x7D, none⟩), (0x31, ⟨0x7E, none⟩),
     (0x32, ⟨0x60, none⟩), (0x33, ⟨0x61, some 0x41⟩), (0x40, ⟨0xB5, none⟩), (0x41, ⟨0x31, some 0x21⟩)]

/-- CFG-T0, its variant with the three polarities inverted (95_test_vectors.md section 0). -/
def cfgT0 : Config := { cfgT with dataIdle := false, attnAssert := false, reqAssert := false }

end Sys2Proof
end

