-- ==== Sys2Proof/Machine/State.lean ====
section
/-! DEFINITION. The state of KBDRX (10_state.md R20), the environment it runs in, as plain data, the reasons a step can
stop, and the state after reset (10_state.md R37). -/

namespace Sys2Proof.Machine

/-- The sequencer's phase (10_state.md R27). -/
inductive Phase where
  | idle | attnPoll | hsAck | firstStart | byteHalf | byteBits | byteStop | gap | finish | fault
deriving DecidableEq, Repr

/-- MOD, the Modifier State (10_state.md R28). -/
structure Mods where
  shift : Bool
  ctrl  : Bool
  alt   : Bool
  fn    : Bool
  caps  : Bool
deriving DecidableEq, Repr

/-- RXBUF as (index, byte) pairs (20_memory.md R50): indices strictly rising and below BUF_CAP (`Memory.wf`). A cell
that is not listed holds no value: reading it is the fault `rxbufUnwritten` (10_state.md R37, U8; log entry 7). -/
abbrev Memory := List Host.Cell

/-- A pin's level as a function of all time (60_exceptions.md R205): a known part in the notation of 30_encoding.md R84,
the level before the first transition and transitions (instant, level), and what comes after it. The model's own (log
entries 3, 27). -/
structure Wave where
  before      : Level
  transitions : List (Nat × Level)
  /-- After the listed transitions: `none`, the line stays as it is; `some k`, it goes on changing, without end if need be,
  as the free source `k` says (`Config.freeGap`). -/
  tail        : Option Nat
deriving DecidableEq, Repr

/-- A command the host will issue: its instant and the value of CMD.blocking (10_state.md R29, D4). The model's own
(log entry 13). -/
structure HostCommand where
  issue : Nat
  word  : BitVec 1
deriving DecidableEq, Repr

/-- The environment as data: the accessory's two lines, the host's commands to come, the RESET events to come. The
model's own (log entries 3, 4, 12, 13, 27). -/
structure Env where
  /-- The DATA pin. -/
  data     : Wave
  /-- The ATTN pin. -/
  attn     : Wave
  /-- Commands not yet issued, in order of issue. -/
  commands : List HostCommand
  /-- The instants of RESET events that have not happened yet, in order. -/
  resets   : List Nat
deriving DecidableEq, Repr

/-- The state: the tuple of 10_state.md R20, then `now` (00_scope.md R10), the configuration (R9) and the
environment. -/
structure State where
  /-- RXBUF (10_state.md R21). -/
  rxbuf       : Memory
  /-- RXLEN (10_state.md R22). -/
  rxlen       : BitVec 4
  /-- SHREG (10_state.md R23). -/
  shreg       : Byte
  /-- BITCNT (10_state.md R24). -/
  bitcnt      : BitVec 4
  /-- TIMER (10_state.md R25): the nanoseconds the last timed wait has measured (log entry 14). -/
  timer       : BitVec 21
  /-- SCAN (10_state.md R26). -/
  scan        : Byte
  /-- EVENT (10_state.md R30). -/
  event       : Word16
  /-- CMD.blocking (10_state.md R29). -/
  cmdBlocking : Bool
  /-- MOD (10_state.md R28). -/
  mods        : Mods
  /-- The level latched on the REQ pin (10_state.md R32, 60_exceptions.md R202). -/
  req         : Level
  /-- PHASE (10_state.md R27). -/
  phase       : Phase
  /-- The present instant in nanoseconds (00_scope.md R10). -/
  now         : Nat
  /-- The parameters (00_scope.md R9). No step changes them. -/
  cfg         : Config
  /-- The environment. -/
  env         : Env
deriving DecidableEq, Repr

/-- How a step stops with a fault. -/
inductive Fault where
  /-- The machine is in PHASE FAULT, which no transition leaves (43_key_decoder.md R172, 60_exceptions.md R197).
  Raised by `step` and by the internal operations in that phase. Safe: nothing is claimed after it. -/
  | rxOverflow
  /-- A read of a cell of RXBUF that nothing has written since reset (10_state.md R37, U8). Raised by VALIDATE. Safe;
  no run reaches it. -/
  | rxbufUnwritten (index : Nat)
  /-- An access to RXBUF at an index that does not exist (20_memory.md R54, R58). Raised by the store of RXFRAME when
  RXLEN is above 10, a value it never takes (10_state.md R22). Safe; no run reaches it. -/
  | rxbufNoCell (index : Nat)
deriving DecidableEq, Repr

/-- How a step is refused. -/
inductive Refusal where
  /-- An instruction that has no meaning yet. Safe. No arm answers it. -/
  | notModelled (mnemonic : String)
  /-- The configuration breaks the constraints of 00_scope.md R9 (U12: refuse). Raised by `step`. Safe. -/
  | badConfiguration
  /-- A GETKEY issued while PHASE is not IDLE (60_exceptions.md R199, U14: refuse). Raised by the two commands, and by
  `step` for a command whose instant lies in the past. Safe. -/
  | getkeyWhileBusy
  /-- An internal operation invoked in a phase in which the chain of 43_key_decoder.md R151 does not run it (R172:
  every transition not listed does not exist). Raised by RXBYTE, RXFRAME and CHAR. Safe; `step` never does it. -/
  | outOfSequence (operation : String)
deriving DecidableEq, Repr

/-- MOD with every flag inactive (10_state.md R37). -/
def Mods.none : Mods := ⟨false, false, false, false, false⟩

/-- The state that RESET leaves, for a configuration, an environment and an instant (10_state.md R37). SHREG, BITCNT,
TIMER, SCAN and CMD.blocking are "unspecified" there: DESIGN CHOICE zero (log entry 6). RXBUF lists nothing: log
entry 7. -/
def State.afterReset (c : Config) (e : Env) (t : Nat) : State where
  rxbuf := []
  rxlen := 0
  shreg := 0
  bitcnt := 0
  timer := 0
  scan := 0
  event := 0
  cmdBlocking := false
  mods := Mods.none
  req := !c.reqAssert
  phase := .idle
  now := t
  cfg := c
  env := e

/-- The environment of State.reset: DATA idle and ATTN deasserted at every instant, no command, no further RESET.
DESIGN CHOICE (log entry 4). -/
def Env.quiet (c : Config) : Env where
  data := ⟨c.dataIdle, [], none⟩
  attn := ⟨!c.attnAssert, [], none⟩
  commands := []
  resets := []

/-- The machine right after reset (10_state.md R37, 70_reset_and_hazards.md R221), at instant 0, with the
configuration CFG-T (DESIGN CHOICE, log entry 2). -/
def State.reset : State := State.afterReset cfgT (Env.quiet cfgT) 0

end Sys2Proof.Machine
end

