-- ==== Sys2Proof/Machine/Ops.lean ====
section
/-! DEFINITION. The named operations every meaning is built from: RXBUF, the pins over time, the waits of
00_scope.md R12, REQ, the start and completion of an operation, taking the fault RX_OVERFLOW (60_exceptions.md R197),
and RESET, the one way out of it (70_reset_and_hazards.md R220). -/

namespace Sys2Proof.Machine

/-- What a step answers on this machine. -/
abbrev Result := Host.Outcome State Fault Refusal

/-- Go on from a next state; a fault or a refusal stands. -/
def andThen (o : Result) (f : State → Result) : Result :=
  match o with
  | .next s => f s
  | .fault r => .fault r
  | .refused r => .refused r

/-! ### RXBUF (10_state.md R21, 20_memory.md R54) -/

/-- The byte a memory lists at an index. -/
def Memory.read : Memory → Nat → Option Byte
  | [], _ => none
  | (b, v) :: m, a => if b = a then some v else Memory.read m a

/-- The memory with one byte written; indices stay strictly rising. -/
def Memory.write : Memory → Nat → Byte → Memory
  | [], a, v => [(a, v)]
  | (b, w) :: m, a, v =>
    if a < b then (a, v) :: (b, w) :: m
    else if a = b then (a, v) :: m
    else (b, w) :: Memory.write m a v

/-- The canonical form: indices strictly rising, each the index of a cell that exists. (An unlisted cell holds no
value, so no entry can equal what an unlisted cell reads as.) -/
abbrev Memory.wf (m : Memory) : Prop :=
  m.Pairwise (fun x y => x.1 < y.1) ∧ ∀ x ∈ m, x.1 < bufCap

/-- `RXBUF[i]`: one byte, for an index that exists and a cell that holds a value (20_memory.md R54, U8). -/
def loadCell (s : State) (i : Nat) : Except Fault Byte :=
  if i < bufCap then
    match s.rxbuf.read i with
    | some b => .ok b
    | none => .error (.rxbufUnwritten i)
  else .error (.rxbufNoCell i)

/-- `RXBUF[i] <- v`: one byte, for an index that exists (20_memory.md R54). -/
def storeCell (s : State) (i : Nat) (v : Byte) : Except Fault State :=
  if i < bufCap then .ok { s with rxbuf := s.rxbuf.write i v } else .error (.rxbufNoCell i)

/-! ### The pins as functions of time (00_scope.md R12, 30_encoding.md R84, 60_exceptions.md R205) -/

/-- Where a line stands at instant `t` that is at `cur` since instant `since` and inverts `g + 1` nanoseconds after each
change, `g` its gap number `n`: its level at `t`, and the instant of its next change, if it changes again. Changes are at
least a nanosecond apart, so a `fuel` of one more than `t - since` is enough (`tailWalk_spec`). -/
def tailWalk (gaps : Nat → Option Nat) : (fuel n since : Nat) → Level → (t : Nat) → Level × Option Nat
  | 0, _, _, cur, _ => (cur, none)
  | fuel + 1, n, since, cur, t =>
    match gaps n with
    | none => (cur, none)
    | some g =>
      if since + g + 1 ≤ t then tailWalk gaps fuel (n + 1) (since + g + 1) (!cur) t else (cur, some (since + g + 1))

/-- The same for a line past its listed transitions, at `cur` since instant `since`. -/
def tailAt (tail : Option Nat) (since : Nat) (cur : Level) (t : Nat) : Level × Option Nat :=
  match tail with
  | none => (cur, none)
  | some k => tailWalk (Config.freeGap k) (t + 1) 0 since cur t

/-- The level at instant `t` of a line that is at `cur` since instant `since`, before the listed transitions. -/
def levelAfter (tail : Option Nat) (since : Nat) (cur : Level) : List (Nat × Level) → Nat → Level
  | [], t => (tailAt tail since cur t).1
  | (i, l) :: rest, t => if i ≤ t then levelAfter tail i l rest t else cur

/-- The least instant from `t` on at which a line that is at `cur` since instant `since`, before the listed transitions,
reads `v`. -/
def firstAfter (tail : Option Nat) (v : Level) (since : Nat) (cur : Level) : List (Nat × Level) → Nat → Option Nat
  | [], t => if (tailAt tail since cur t).1 = v then some t else (tailAt tail since cur t).2
  | (i, l) :: rest, t =>
    if t < i then (if cur = v then some t else firstAfter tail v i l rest i) else firstAfter tail v i l rest t

/-- The pin's level at an instant: a transition (t, l) means the pin reads l from t inclusive (30_encoding.md R84). -/
def Wave.level (w : Wave) (t : Nat) : Level := levelAfter w.tail 0 w.before w.transitions t

/-- The least instant from `t` on at which the pin reads `v`; `none` if it never does. -/
def Wave.first (w : Wave) (v : Level) (t : Nat) : Option Nat := firstAfter w.tail v 0 w.before w.transitions t

/-- `sample()`: the raw level of DATA at `now` (00_scope.md R12, 40_bit_sampler.md R104). -/
def sample (s : State) : Level := s.env.data.level s.now

/-- `data_active(now)`. -/
def dataActive (s : State) : Bool := sample s != s.cfg.dataIdle

/-- `data_idle(now)`. -/
def dataIdle (s : State) : Bool := !dataActive s

/-- `attn_asserted(now)`. -/
def attnAsserted (s : State) : Bool := s.env.attn.level s.now == s.cfg.attnAssert

/-! ### The waits (00_scope.md R12) -/

/-- `wait(d)`: the timer measures `d` from zero and `now` moves on by `d`. -/
def waitFor (d : Nat) (s : State) : State := { s with now := s.now + d, timer := BitVec.ofNat 21 d }

/-- `wait_until(the line reads v)`: `now` becomes the least such instant; `none` is a hang. No timer is used
(10_state.md R25). -/
def waitLevel (w : Wave) (v : Level) (s : State) : Option State :=
  match w.first v s.now with
  | some t => some { s with now := t }
  | none => none

/-- How long `wait_until_or` lasts from instant `t`: to the condition if it comes within `d`, else `d`. -/
def boundedDelay (w : Wave) (v : Level) (d : Nat) (t : Nat) : Nat :=
  match w.first v t with
  | some u => min (u - t) d
  | none => d

/-- `wait_until_or(the line reads v, d)`: the timer measures the wait, at most `d`. Its answer is `true` exactly when
the timer is then below `d` (the window is half-open, D9). -/
def waitLevelOr (w : Wave) (v : Level) (d : Nat) (s : State) : State := waitFor (boundedDelay w v d s.now) s

/-- After an unbounded wait: go on at the instant its condition holds; a wait whose condition never holds leaves the
machine where it is, for ever (60_exceptions.md R198, D32; log entry 10). -/
def afterWait (w : Wave) (v : Level) (s : State) (k : State → State) : Result :=
  match waitLevel w v s with
  | some t => .next (k t)
  | none => .next s

/-! ### The transitions' actions (43_key_decoder.md R172) -/

/-- `REQ <- asserted`, entering HS_ACK (41_frame_assembler.md R122). -/
def acknowledge (s : State) : State := { s with req := s.cfg.reqAssert, phase := .hsAck }

/-- `REQ <- deasserted`, entering FIRST_START (41_frame_assembler.md R123). -/
def releaseReq (s : State) : State := { s with req := !s.cfg.reqAssert, phase := .firstStart }

/-- A start condition is seen: RXBYTE is entered (41_frame_assembler.md R126, 40_bit_sampler.md R101). -/
def beginByte (s : State) : State := { s with phase := .byteHalf }

/-- The burst is over: RXFRAME returns (41_frame_assembler.md R129, R130). -/
def endBurst (s : State) : State := { s with phase := .finish }

/-- The command completes: `EVENT <- w`, PHASE IDLE (43_key_decoder.md R151, 10_state.md R30). -/
def complete (w : Word16) (s : State) : State := { s with event := w, phase := .idle }

/-- `SHREG <- (SHREG << 1)[7:0] | zext_8(b)` (40_bit_sampler.md R103). -/
def shiftIn (r : Byte) (b : Level) : Byte := (r <<< 1) ||| zext8 b

/-- Taking RX_OVERFLOW (60_exceptions.md R197): PHASE becomes FAULT and everything else keeps its value. -/
def takeOverflow (s : State) : State := { s with phase := .fault }

/-- RESET at an instant (70_reset_and_hazards.md R220): every piece of state at the value of 10_state.md R37; the
configuration and the environment are not touched, but for the RESET that has happened. The one way out of FAULT. -/
def applyReset (t : Nat) (s : State) : State :=
  State.afterReset s.cfg { s.env with resets := s.env.resets.tail } t

end Sys2Proof.Machine
end

