-- ==== Sys2Proof/Machine/Flags.lean ====
section
/-! DEFINITION. The Modifier State (10_state.md R28): the update each dedicated code makes to a flag, and the mask
DECODE reads from the flags (43_key_decoder.md R167). No other operation writes or reads a flag. -/

namespace Sys2Proof.Machine

/-- `MOD.shift <- b` (43_key_decoder.md R155, R156). -/
def Mods.setShift (b : Bool) (m : Mods) : Mods := { m with shift := b }

/-- `MOD.ctrl <- b` (43_key_decoder.md R157, R158). -/
def Mods.setCtrl (b : Bool) (m : Mods) : Mods := { m with ctrl := b }

/-- `MOD.alt <- b` (43_key_decoder.md R159, R160). -/
def Mods.setAlt (b : Bool) (m : Mods) : Mods := { m with alt := b }

/-- `MOD.fn <- b` (43_key_decoder.md R161, R162). -/
def Mods.setFn (b : Bool) (m : Mods) : Mods := { m with fn := b }

/-- `MOD.caps <- not MOD.caps` (43_key_decoder.md R163). -/
def Mods.toggleCaps (m : Mods) : Mods := { m with caps := !m.caps }

/-- `fn ++ alt ++ ctrl ++ shift`, 4 bits (43_key_decoder.md R166, R167). -/
def maskBits (fn alt ctrl shift : Bool) : BitVec 4 :=
  BitVec.ofBool fn ++ BitVec.ofBool alt ++ BitVec.ofBool ctrl ++ BitVec.ofBool shift

/-- The modifier mask at the time of decoding (43_key_decoder.md R167); caps is no bit of it (R174). -/
def Mods.mask (m : Mods) : BitVec 4 := maskBits m.fn m.alt m.ctrl m.shift

/-- A state with its Modifier State updated. -/
def setMods (f : Mods → Mods) (s : State) : State := { s with mods := f s.mods }

end Sys2Proof.Machine
end

