-- ==== Sys2Proof/Machine/Operands.lean ====
section
/-! DEFINITION. The operands of the operations: the packet's bytes in RXBUF (42_packet_validator.md R141), the cell
RXFRAME stores to (41_frame_assembler.md R127), the character KEYTAB gives under the modifiers (43_key_decoder.md R168
to R170), and the packing of EVENT (30_encoding.md R76). -/

namespace Sys2Proof.Machine

/-- The code VALIDATE produces (42_packet_validator.md R141): the length test first, then RXBUF[0], RXBUF[1]; the third
byte if all hold, else 0x00. Each cell is read only when the tests before it hold. -/
def validCode (s : State) : Except Fault Byte :=
  if pktLen ≤ s.rxlen.toNat then
    match loadCell s 0 with
    | .error f => .error f
    | .ok p0 =>
      if p0 = preamble0 then
        match loadCell s 1 with
        | .error f => .error f
        | .ok p1 => if p1 = preamble1 then loadCell s 2 else .ok 0x00
      else .ok 0x00
  else .ok 0x00

/-- The index RXFRAME stores the next byte to: RXLEN (41_frame_assembler.md R127). -/
def storeIndex (s : State) : Nat := s.rxlen.toNat

/-- The control conversion's range test, inclusive (43_key_decoder.md R169). -/
def inCtrlRange (ch : Byte) : Bool := decide (ctrlLo ≤ ch) && decide (ch ≤ ctrlHi)

/-- The character of a table entry under the modifiers (43_key_decoder.md R166): absent gives 0 (R170); shift active
gives the shifted form or falls back, with no control conversion (R168); otherwise the unshifted form, converted under
ctrl within the range (R169). -/
def resolveChar (m : Mods) : Option KeyEntry → Byte
  | none => 0x00
  | some e =>
    if m.shift then e.shifted.getD e.unshifted
    else if m.ctrl && inCtrlRange e.unshifted then e.unshifted - ctrlSub
    else e.unshifted

/-- `(zext_16(mask) << 8) | zext_16(ch)` (30_encoding.md R76, 43_key_decoder.md R165). -/
def packEvent (mask : BitVec 4) (ch : Byte) : Word16 := (mask.zeroExtend 16 <<< 8) ||| ch.zeroExtend 16

/-- The result of the KEY class for a scan code (43_key_decoder.md R165). -/
def keyResult (c : Config) (m : Mods) (code : Byte) : Word16 := packEvent m.mask (resolveChar m (c.lookup code))

end Sys2Proof.Machine
end

