-- ==== Sys2Proof/Machine/Sampler.lean ====
section
/-! DEFINITION. RXBYTE, the Bit Sampler (40_bit_sampler.md), and the character frame CHAR it receives. -/

namespace Sys2Proof.Machine

/-- The half-bit wait, after which SHREG and BITCNT are cleared (40_bit_sampler.md R101). -/
def startSampling (s : State) : State := { waitFor tHalf s with shreg := 0x00, bitcnt := 0, phase := .byteBits }

/-- One full-bit wait and one sample (40_bit_sampler.md R101 to R104); the eighth sample enters BYTE_STOP
(43_key_decoder.md R172). -/
def takeSample (s : State) : State :=
  let w := waitFor tBit s
  { w with
    shreg := shiftIn s.shreg (sample w)
    bitcnt := s.bitcnt + 1
    phase := if (s.bitcnt + 1).toNat < nBits then .byteBits else .byteStop }

/-- One transition of RXBYTE, from the phase it is in (40_bit_sampler.md R101): the half-bit wait, one sample, or the
wait for the stop condition (R105). The loop leaves BYTE_BITS when BITCNT is 8. -/
def samplerStep (s : State) : Result :=
  match s.phase with
  | .byteHalf => .next (startSampling s)
  | .byteBits => .next (if s.bitcnt.toNat < nBits then takeSample s else { s with phase := .byteStop })
  | .byteStop => afterWait s.env.data s.cfg.dataIdle s id
  | .fault => .fault .rxOverflow
  | .idle | .attnPoll | .hsAck | .firstStart | .gap | .finish => .refused (.outOfSequence "RXBYTE")

/-- RXBYTE: its next transition (40_bit_sampler.md R101; log entry 8). -/
def execRxbyte (s : State) : Result := samplerStep s

/-- The state at the eighth sample of a character with the given data bits, started at `now` (40_bit_sampler.md R102,
R103). -/
def receivedChar (bits : Byte) (s : State) : State :=
  { s with
    shreg := bits
    bitcnt := 8
    timer := BitVec.ofNat 21 tBit
    now := s.now + (tHalf + nBits * tBit)
    phase := .byteStop }

/-- CHAR: a whole character frame with the given data bits, received from its start condition to its stop condition
(30_encoding.md R71, 40_bit_sampler.md R101 and R105; log entry 16). -/
def execChar (bits : Byte) (s : State) : Result :=
  match s.phase with
  | .byteHalf => afterWait s.env.data s.cfg.dataIdle (receivedChar bits s) id
  | .fault => .fault .rxOverflow
  | .idle | .attnPoll | .hsAck | .firstStart | .byteBits | .byteStop | .gap | .finish =>
    .refused (.outOfSequence "CHAR")

end Sys2Proof.Machine
end

