-- ==== Sys2Proof/Machine/Framer.lean ====
section
/-! DEFINITION. RXFRAME, the Frame Assembler (41_frame_assembler.md), and the issue of GETKEY, which begins with
RXFRAME's look at ATTN (43_key_decoder.md R151 to R153). -/

namespace Sys2Proof.Machine

/-- The store of a received byte (41_frame_assembler.md R127), or RX_OVERFLOW when RXBUF is full (R128). -/
def storeByte (s : State) : Result :=
  if storeIndex s = bufCap then .next (takeOverflow s)
  else
    match storeCell s (storeIndex s) s.shreg with
    | .ok t => .next { t with rxlen := s.rxlen + 1, phase := .gap }
    | .error f => .fault f

/-- The wait for the next start condition or the silence (41_frame_assembler.md R129). -/
def gapStep (s : State) : State :=
  let w := waitLevelOr s.env.data (!s.cfg.dataIdle) tGap s
  if w.timer.toNat < tGap then beginByte w else endBurst w

/-- One transition of RXFRAME, from the phase it is in (41_frame_assembler.md R121). Entered in IDLE it clears RXLEN and
looks at ATTN once (R124); RXBYTE's phases are RXBYTE's own transitions, which RXFRAME calls (R126). -/
def framerStep (s : State) : Result :=
  match s.phase with
  | .idle =>
    let t := { s with rxlen := 0 }
    .next (if attnAsserted t then acknowledge t else t)
  | .attnPoll => afterWait s.env.attn s.cfg.attnAssert s acknowledge
  | .hsAck => afterWait s.env.attn (!s.cfg.attnAssert) s releaseReq
  | .firstStart => afterWait s.env.data (!s.cfg.dataIdle) s beginByte
  | .byteHalf | .byteBits => samplerStep s
  | .byteStop => if dataIdle s then storeByte s else samplerStep s
  | .gap => .next (gapStep s)
  | .finish => .refused (.outOfSequence "RXFRAME")
  | .fault => .fault .rxOverflow

/-- RXFRAME: its next transition (41_frame_assembler.md R121; log entry 8). -/
def execRxframe (s : State) : Result := framerStep s

/-- A GETKEY is issued: CMD.blocking is latched, RXLEN cleared, ATTN looked at once (43_key_decoder.md R151, R172). Not
asserted: the non-blocking command completes with the null event (R153), the blocking one polls (R152). A command is
accepted in IDLE only (60_exceptions.md R199). -/
def issueGetkey (blocking : Bool) (s : State) : Result :=
  if s.phase = .idle then
    let t := { s with cmdBlocking := blocking, rxlen := 0 }
    .next
      (if attnAsserted t then acknowledge t
       else if blocking then { t with phase := .attnPoll }
       else complete 0x0000 t)
  else .refused .getkeyWhileBusy

/-- GETKEY.NB (43_key_decoder.md R153). -/
def execGetkeyNb (s : State) : Result := issueGetkey false s

/-- GETKEY.B (43_key_decoder.md R152). -/
def execGetkeyB (s : State) : Result := issueGetkey true s

end Sys2Proof.Machine
end

