-- ==== Sys2Proof/Syntax.lean ====
section
/-! DEFINITION. The instructions of KBDRX: one constructor per row of spec/opcode_table.json, the formats they are
encoded in (30_encoding.md R70), and the names under which a word is rejected. -/

namespace Sys2Proof

/-- One constructor per row of spec/opcode_table.json, in its order. -/
inductive Instr where
  /-- GETKEY.NB, the non-blocking command (43_key_decoder.md R153). -/
  | getkeyNb
  /-- GETKEY.B, the blocking command (43_key_decoder.md R152). -/
  | getkeyB
  /-- CHAR, a character frame with its eight data bits, the first received in bit 7 (30_encoding.md R71). -/
  | char (bits : Byte)
  /-- PKT, the packet 0x15, 0x35, code (30_encoding.md R73). -/
  | pkt (code : Byte)
  /-- NOKEY, scan code 0x00 (43_key_decoder.md R154). -/
  | nokey
  /-- SHIFT_DN (43_key_decoder.md R155). -/
  | shiftDn
  /-- SHIFT_UP (43_key_decoder.md R156). -/
  | shiftUp
  /-- CTRL_DN (43_key_decoder.md R157). -/
  | ctrlDn
  /-- CTRL_UP (43_key_decoder.md R158). -/
  | ctrlUp
  /-- ALT_DN (43_key_decoder.md R159). -/
  | altDn
  /-- ALT_UP (43_key_decoder.md R160). -/
  | altUp
  /-- FN_DN (43_key_decoder.md R161). -/
  | fnDn
  /-- FN_UP (43_key_decoder.md R162). -/
  | fnUp
  /-- CAPS (43_key_decoder.md R163). -/
  | caps
  /-- KEYUP, the key-released code (43_key_decoder.md R164). -/
  | keyup
  /-- KEY, any code that is not 0x00 and not dedicated (43_key_decoder.md R165); the codes 0x17 and 0x27 have
  rows of their own. -/
  | key (code : Byte)
  /-- KEY.q, scan code 0x17 (43_key_decoder.md R165). -/
  | keyQ
  /-- KEY.s, scan code 0x27 (43_key_decoder.md R165). -/
  | keyS
  /-- EVENT, the result word 0000FACSkkkkkkkk (30_encoding.md R75). -/
  | event (fn alt ctrl shift : Bool) (ch : Byte)
  /-- RXBYTE, the Bit Sampler (40_bit_sampler.md R101). -/
  | rxbyte
  /-- RXFRAME, the Frame Assembler (41_frame_assembler.md R121). -/
  | rxframe
  /-- VALIDATE, the Packet Validator (42_packet_validator.md R141). -/
  | validate
  /-- DECODE, the Key Decoder (43_key_decoder.md R166). -/
  | decode
deriving DecidableEq, Repr

/-- The formats of the table's rows: the five of 30_encoding.md R70 (the burst is a list of character frames), the
scan code carried by a packet (R78), and `internal` for the four operations that have no encoding (00_scope.md R3). -/
inductive Format where
  | command | frame | packet | scanCode | result | internal
deriving DecidableEq, Repr

/-- The format of an instruction's encoding, as the row's "format" in spec/opcode_table.json gives it. -/
def Instr.format : Instr → Format
  | .getkeyNb | .getkeyB => .command
  | .char _ => .frame
  | .pkt _ => .packet
  | .nokey | .shiftDn | .shiftUp | .ctrlDn | .ctrlUp | .altDn | .altUp | .fnDn | .fnUp | .caps | .keyup => .scanCode
  | .key _ | .keyQ | .keyS => .scanCode
  | .event _ _ _ _ _ => .result
  | .rxbyte | .rxframe | .validate | .decode => .internal

/-- The words an instruction is read from, one alternative per format. -/
inductive Encoded where
  /-- The command port: the value of CMD.blocking (30_encoding.md R77). -/
  | command (w : BitVec 1)
  /-- The symbols of one character on DATA in time order: start, eight data bits, stop (30_encoding.md R71; the word form
  is log entry 28). -/
  | frame (symbols : List Level)
  /-- The bytes of a burst in the order received (30_encoding.md R73, R74). -/
  | packet (bytes : List Byte)
  /-- A raw scan code (30_encoding.md R78). -/
  | scanCode (code : Byte)
  /-- A result word (30_encoding.md R75). -/
  | result (w : Word16)
deriving DecidableEq, Repr

/-- The format a word belongs to. -/
def Encoded.format : Encoded → Format
  | .command _ => .command
  | .frame _ => .frame
  | .packet _ => .packet
  | .scanCode _ => .scanCode
  | .result _ => .result

/-- Why a word is no instruction. -/
inductive DecodeReason where
  /-- A frame word that is not ten symbols long. DESIGN CHOICE (log entry 28): no condition of the line. -/
  | frameLength
  /-- The first symbol of a frame word is not at the active level, which a start condition requires (30_encoding.md R71).
  That such a word is rejected is the DESIGN CHOICE of log entry 28. -/
  | noStartCondition
  /-- The last symbol of a frame word is not at the idle level. DESIGN CHOICE (log entry 28): no framing error of the line,
  which KBDRX does not have (30_encoding.md R83). -/
  | noStopCondition
  /-- A burst of fewer than 3 bytes: malformed packet (30_encoding.md R80). -/
  | shortPacket
  /-- A burst that does not begin 0x15, 0x35: malformed packet (30_encoding.md R80). -/
  | badPreamble
  /-- A burst of more than 10 bytes, which RXBUF cannot hold (30_encoding.md R80). -/
  | longBurst
  /-- A result word whose bits 15:12 are not 0 (30_encoding.md R75). -/
  | reservedBits
deriving DecidableEq, Repr

/-- The twelve classes of the scan-code map (30_encoding.md R78). -/
inductive ScanClass where
  | nokey | shiftDn | shiftUp | ctrlDn | ctrlUp | altDn | altUp | fnDn | fnUp | caps | keyup | key
deriving DecidableEq, Repr

end Sys2Proof
end

