-- ==== Sys2Proof/WellFormed.lean ====
section
/-! DEFINITION. Which configurations the model accepts (00_scope.md R9, U12), and which instruction terms stand for
a word: a KEY operand is a code of the KEY class with no row of its own. -/

namespace Sys2Proof

/-- Scan codes strictly rising: the one canonical form of KEYTAB (log entry 20). -/
def rowsRising : List (Byte × KeyEntry) → Bool
  | [] => true
  | [_] => true
  | (a, _) :: (b, e) :: rows => decide (a.toNat < b.toNat) && rowsRising ((b, e) :: rows)

/-- Pairwise different. -/
def allDifferent : List Byte → Bool
  | [] => true
  | b :: bs => !bs.contains b && allDifferent bs

/-- A dedicated code is none of 0x00, 0x17 and 0x27, and not in the domain of KEYTAB (00_scope.md R9). -/
def dedicatedOk (c : Config) (b : Byte) : Bool :=
  decide (b ≠ 0x00) && decide (b ≠ codeQ) && decide (b ≠ codeS) && (c.lookup b).isNone

/-- The constraints of 00_scope.md R9 on the parameters; a configuration that breaks them is refused (U12). -/
def Config.valid (c : Config) : Bool :=
  allDifferent c.dedicated && c.dedicated.all (dedicatedOk c) && (c.lookup 0x00).isNone &&
    decide (c.lookup codeQ = some ⟨0x71, some 0x51⟩) &&
    decide ((c.lookup codeS).map KeyEntry.unshifted = some 0x73) && rowsRising c.keytab

/-- The terms that stand for a word: every term but `key` of a code that belongs to another row (30_encoding.md
R78, R79). -/
def Instr.wellFormed (c : Config) : Instr → Bool
  | .key code =>
    decide (code ≠ 0x00) && !c.dedicated.contains code && decide (code ≠ codeQ) && decide (code ≠ codeS)
  | .getkeyNb | .getkeyB | .char _ | .pkt _ => true
  | .nokey | .shiftDn | .shiftUp | .ctrlDn | .ctrlUp | .altDn | .altUp | .fnDn | .fnUp | .caps | .keyup => true
  | .keyQ | .keyS | .event _ _ _ _ _ => true
  | .rxbyte | .rxframe | .validate | .decode => true

end Sys2Proof
end

