-- ==== Sys2Proof/Decode.lean ====
section
/-! DEFINITION. Reading an instruction from its words, for each format of 30_encoding.md, and writing the words of an
instruction. The scan-code map depends on the configuration (30_encoding.md R78). -/

namespace Sys2Proof

/-- The command map (30_encoding.md R77): 0 selects GETKEY.NB, 1 selects GETKEY.B. -/
def decodeCommand (w : BitVec 1) : Instr := if w = 0 then .getkeyNb else .getkeyB

/-- The byte of eight bits in time order, the first in bit 7 (30_encoding.md R72). -/
def byteOfBits (b1 b2 b3 b4 b5 b6 b7 b8 : Level) : Byte :=
  BitVec.ofBool b1 ++ BitVec.ofBool b2 ++ BitVec.ofBool b3 ++ BitVec.ofBool b4 ++
    BitVec.ofBool b5 ++ BitVec.ofBool b6 ++ BitVec.ofBool b7 ++ BitVec.ofBool b8

/-- A character frame (30_encoding.md R71) written as the symbols `abbbbbbbbi` of the row CHAR: start at the active level,
eight data bits, stop at the idle level. R71 gives the stop condition no time, and there is no framing error (R83). DESIGN
CHOICE (log entry 28): as a word a frame is exactly these ten symbols, the last standing for the stop condition whenever it
comes, and any other list of symbols is rejected by name. The sequencer never reads this word: on the line RXBYTE waits for
the stop condition without bound and rejects nothing (40_bit_sampler.md R105). -/
def decodeFrame (idle : Level) : List Level → Except DecodeReason Instr
  | [a, b1, b2, b3, b4, b5, b6, b7, b8, i] =>
    if a = idle then .error .noStartCondition
    else if i = idle then .ok (.char (byteOfBits b1 b2 b3 b4 b5 b6 b7 b8))
    else .error .noStopCondition
  | _ => .error .frameLength

/-- A burst as a packet (30_encoding.md R73, R80): at least three bytes beginning 0x15, 0x35; bytes from index 3 on
are ignored. -/
def decodePacket : List Byte → Except DecodeReason Instr
  | p0 :: p1 :: code :: rest =>
    if bufCap < pktLen + rest.length then .error .longBurst
    else if p0 = preamble0 ∧ p1 = preamble1 then .ok (.pkt code)
    else .error .badPreamble
  | _ => .error .shortPacket

/-- The class of a scan code: the table of 30_encoding.md R78 tried in its order (R79, D28). -/
def classify (c : Config) (code : Byte) : ScanClass :=
  if code = 0x00 then .nokey
  else if code = c.scShiftPress then .shiftDn
  else if code = c.scShiftRelease then .shiftUp
  else if code = c.scCtrlPress then .ctrlDn
  else if code = c.scCtrlRelease then .ctrlUp
  else if code = c.scAltPress then .altDn
  else if code = c.scAltRelease then .altUp
  else if code = c.scFnPress then .fnDn
  else if code = c.scFnRelease then .fnUp
  else if code = c.scCaps then .caps
  else if code = c.scKeyReleased then .keyup
  else .key

/-- The instruction a scan code selects: its class; in the KEY class, the two known rows of KEYTAB have rows of
their own in the opcode table. -/
def decodeScan (c : Config) (code : Byte) : Instr :=
  match classify c code with
  | .nokey => .nokey
  | .shiftDn => .shiftDn
  | .shiftUp => .shiftUp
  | .ctrlDn => .ctrlDn
  | .ctrlUp => .ctrlUp
  | .altDn => .altDn
  | .altUp => .altUp
  | .fnDn => .fnDn
  | .fnUp => .fnUp
  | .caps => .caps
  | .keyup => .keyup
  | .key => if code = codeQ then .keyQ else if code = codeS then .keyS else .key code

/-- A result word (30_encoding.md R75): bits 15:12 are 0. -/
def decodeResult (w : Word16) : Except DecodeReason Instr :=
  if w.extractLsb' 12 4 = 0 then
    .ok (.event (w.getLsbD 11) (w.getLsbD 10) (w.getLsbD 9) (w.getLsbD 8) (w.extractLsb' 0 8))
  else .error .reservedBits

/-- The instruction read from its words, or the name under which they are rejected. -/
def decode (c : Config) : Encoded → Except DecodeReason Instr
  | .command w => .ok (decodeCommand w)
  | .frame symbols => decodeFrame c.dataIdle symbols
  | .packet bytes => decodePacket bytes
  | .scanCode code => .ok (decodeScan c code)
  | .result w => decodeResult w

/-- The ten symbols of a character frame (30_encoding.md R71), data bits bit 7 first; the one idle symbol at the end is the
stop condition, which has no time of its own (log entry 28). -/
def encodeFrame (idle : Level) (b : Byte) : List Level :=
  [!idle, b.getLsbD 7, b.getLsbD 6, b.getLsbD 5, b.getLsbD 4, b.getLsbD 3, b.getLsbD 2, b.getLsbD 1, b.getLsbD 0, idle]

/-- The result word `0b0000 ++ mask ++ ch` from its fields (30_encoding.md R75, R76). -/
def encodeResult (fn alt ctrl shift : Bool) (ch : Byte) : Word16 :=
  (0 : BitVec 4) ++ BitVec.ofBool fn ++ BitVec.ofBool alt ++ BitVec.ofBool ctrl ++ BitVec.ofBool shift ++ ch

/-- The words of an instruction; none for the four internal operations, which have no encoding (00_scope.md R3). -/
def encode (c : Config) : Instr → Option Encoded
  | .getkeyNb => some (.command 0)
  | .getkeyB => some (.command 1)
  | .char b => some (.frame (encodeFrame c.dataIdle b))
  | .pkt code => some (.packet [preamble0, preamble1, code])
  | .nokey => some (.scanCode 0x00)
  | .shiftDn => some (.scanCode c.scShiftPress)
  | .shiftUp => some (.scanCode c.scShiftRelease)
  | .ctrlDn => some (.scanCode c.scCtrlPress)
  | .ctrlUp => some (.scanCode c.scCtrlRelease)
  | .altDn => some (.scanCode c.scAltPress)
  | .altUp => some (.scanCode c.scAltRelease)
  | .fnDn => some (.scanCode c.scFnPress)
  | .fnUp => some (.scanCode c.scFnRelease)
  | .caps => some (.scanCode c.scCaps)
  | .keyup => some (.scanCode c.scKeyReleased)
  | .key code => some (.scanCode code)
  | .keyQ => some (.scanCode codeQ)
  | .keyS => some (.scanCode codeS)
  | .event f a k s ch => some (.result (encodeResult f a k s ch))
  | .rxbyte | .rxframe | .validate | .decode => none

/-- The words a table word stands for, by the width of its row (log entry 17): 24 bits are the three bytes of a packet,
the first received in bits 23:16; 16 bits are a result word; 8 bits with value 0 or 1, and fewer than 8 bits, are the
command bit; other 8-bit values are scan codes. -/
def tableWord (nbits w : Nat) : Option Encoded :=
  if nbits = 24 then
    some (.packet [BitVec.ofNat 8 (w / 65536), BitVec.ofNat 8 (w / 256), BitVec.ofNat 8 w])
  else if nbits = 16 then some (.result (BitVec.ofNat 16 w))
  else if nbits ≤ 8 then
    if w < 2 then some (.command (BitVec.ofNat 1 w))
    else if nbits = 8 then some (.scanCode (BitVec.ofNat 8 w))
    else none
  else none

/-- The instruction the decoder reads from a table word, under the configuration of State.reset. -/
def decodeTableWord (nbits w : Nat) : Option Instr :=
  match tableWord nbits w with
  | none => none
  | some e =>
    match decode cfgT e with
    | .ok i => some i
    | .error _ => none

end Sys2Proof
end

