-- ==== Sys2Proof/Machine/KeyDecoder.lean ====
section
/-! DEFINITION. VALIDATE and PKT (42_packet_validator.md), DECODE and the twelve scan-code classes, and the result word
EVENT (43_key_decoder.md). All take zero time and touch no pin. -/

namespace Sys2Proof.Machine

/-- PKT: an accepted packet yields its scan code (42_packet_validator.md R141; log entry 16). -/
def execPkt (code : Byte) (s : State) : Result := .next { s with scan := code }

/-- VALIDATE (42_packet_validator.md R141): SCAN and nothing else (R144). -/
def execValidate (s : State) : Result :=
  match validCode s with
  | .ok code => .next { s with scan := code }
  | .error f => .fault f

/-- A dedicated code: the flag update, and the null event (43_key_decoder.md R155 to R164). -/
def modifierEvent (f : Mods → Mods) (s : State) : State := complete 0x0000 (setMods f s)

/-- A code of the KEY class (43_key_decoder.md R165). -/
def keyEvent (code : Byte) (s : State) : State := complete (keyResult s.cfg s.mods code) s

/-- NOKEY (43_key_decoder.md R154). -/
def execNokey (s : State) : Result := .next (complete 0x0000 s)

/-- SHIFT_DN (43_key_decoder.md R155, D13). -/
def execShiftDn (s : State) : Result := .next (modifierEvent (Mods.setShift true) s)

/-- SHIFT_UP (43_key_decoder.md R156). -/
def execShiftUp (s : State) : Result := .next (modifierEvent (Mods.setShift false) s)

/-- CTRL_DN (43_key_decoder.md R157). -/
def execCtrlDn (s : State) : Result := .next (modifierEvent (Mods.setCtrl true) s)

/-- CTRL_UP (43_key_decoder.md R158). -/
def execCtrlUp (s : State) : Result := .next (modifierEvent (Mods.setCtrl false) s)

/-- ALT_DN (43_key_decoder.md R159). -/
def execAltDn (s : State) : Result := .next (modifierEvent (Mods.setAlt true) s)

/-- ALT_UP (43_key_decoder.md R160). -/
def execAltUp (s : State) : Result := .next (modifierEvent (Mods.setAlt false) s)

/-- FN_DN (43_key_decoder.md R161). -/
def execFnDn (s : State) : Result := .next (modifierEvent (Mods.setFn true) s)

/-- FN_UP (43_key_decoder.md R162). -/
def execFnUp (s : State) : Result := .next (modifierEvent (Mods.setFn false) s)

/-- CAPS (43_key_decoder.md R163). -/
def execCaps (s : State) : Result := .next (modifierEvent Mods.toggleCaps s)

/-- KEYUP (43_key_decoder.md R164). -/
def execKeyup (s : State) : Result := .next (complete 0x0000 s)

/-- KEY (43_key_decoder.md R165). -/
def execKey (code : Byte) (s : State) : Result := .next (keyEvent code s)

/-- KEY.q: the KEY class on scan code 0x17 (43_key_decoder.md R165). -/
def execKeyQ (s : State) : Result := .next (keyEvent codeQ s)

/-- KEY.s: the KEY class on scan code 0x27 (43_key_decoder.md R165). -/
def execKeyS (s : State) : Result := .next (keyEvent codeS s)

/-- EVENT: the completion that delivers a result word (30_encoding.md R75, R76, D4; log entry 16). -/
def execEvent (fn alt ctrl shift : Bool) (ch : Byte) (s : State) : Result :=
  .next (complete (packEvent (maskBits fn alt ctrl shift) ch) s)

/-- DECODE: the class of SCAN decides (43_key_decoder.md R166, 30_encoding.md R79). -/
def execDecode (s : State) : Result :=
  match classify s.cfg s.scan with
  | .nokey => execNokey s
  | .shiftDn => execShiftDn s
  | .shiftUp => execShiftUp s
  | .ctrlDn => execCtrlDn s
  | .ctrlUp => execCtrlUp s
  | .altDn => execAltDn s
  | .altUp => execAltUp s
  | .fnDn => execFnDn s
  | .fnUp => execFnUp s
  | .caps => execCaps s
  | .keyup => execKeyup s
  | .key => execKey s.scan s

end Sys2Proof.Machine
end

