-- ==== Sys2Proof/Machine/Dispatch.lean ====
section
/-! DEFINITION. The meaning of every instruction, one arm per constructor. -/

namespace Sys2Proof.Machine

def exec (i : Instr) (s : State) : Host.Outcome State Fault Refusal :=
  match i with
  | .getkeyNb => Sys2Proof.Machine.execGetkeyNb s
  | .getkeyB => Sys2Proof.Machine.execGetkeyB s
  | .char bits => Sys2Proof.Machine.execChar bits s
  | .pkt code => Sys2Proof.Machine.execPkt code s
  | .nokey => Sys2Proof.Machine.execNokey s
  | .shiftDn => Sys2Proof.Machine.execShiftDn s
  | .shiftUp => Sys2Proof.Machine.execShiftUp s
  | .ctrlDn => Sys2Proof.Machine.execCtrlDn s
  | .ctrlUp => Sys2Proof.Machine.execCtrlUp s
  | .altDn => Sys2Proof.Machine.execAltDn s
  | .altUp => Sys2Proof.Machine.execAltUp s
  | .fnDn => Sys2Proof.Machine.execFnDn s
  | .fnUp => Sys2Proof.Machine.execFnUp s
  | .caps => Sys2Proof.Machine.execCaps s
  | .keyup => Sys2Proof.Machine.execKeyup s
  | .key code => Sys2Proof.Machine.execKey code s
  | .keyQ => Sys2Proof.Machine.execKeyQ s
  | .keyS => Sys2Proof.Machine.execKeyS s
  | .event fn alt ctrl shift ch => Sys2Proof.Machine.execEvent fn alt ctrl shift ch s
  | .rxbyte => Sys2Proof.Machine.execRxbyte s
  | .rxframe => Sys2Proof.Machine.execRxframe s
  | .validate => Sys2Proof.Machine.execValidate s
  | .decode => Sys2Proof.Machine.execDecode s

end Sys2Proof.Machine
end

