-- ==== Sys2Proof/Machine/Sequencer.lean ====
section
/-! DEFINITION. The sequencer (43_key_decoder.md R151, R172): which instruction runs next, the command port, the RESET
event, and where a table word is placed so that the next step runs it. `step` (Step.lean) only calls these. -/

namespace Sys2Proof.Machine

/-- The command at the head of the host's queue is issued: `now` becomes its instant and it leaves the queue
(10_state.md R29). -/
def acceptCommand (h : HostCommand) (s : State) : State :=
  { s with now := h.issue, env := { s.env with commands := s.env.commands.tail } }

/-- PHASE IDLE: nothing happens until the host issues a command (70_reset_and_hazards.md R222); a command whose instant
has passed was issued while the block was busy and is refused (60_exceptions.md R199; log entry 13). -/
def idleStep (s : State) : Result :=
  match s.env.commands with
  | [] => .next s
  | h :: _ =>
    if h.issue < s.now then .refused .getkeyWhileBusy
    else exec (decodeCommand h.word) (acceptCommand h s)

/-- PHASE FINISH: VALIDATE, then the instruction the scan code selects (43_key_decoder.md R151, R172). -/
def finishStep (s : State) : Result :=
  andThen (exec .validate s) (fun t => exec (decodeScan t.cfg t.scan) t)

/-- One transition of the phase graph (43_key_decoder.md R172). In BYTE_STOP with DATA idle RXBYTE has returned and
RXFRAME goes on (log entry 9). -/
def sequencerStep (s : State) : Result :=
  match s.phase with
  | .idle => idleStep s
  | .attnPoll | .hsAck | .firstStart | .gap => exec .rxframe s
  | .byteHalf | .byteBits => exec .rxbyte s
  | .byteStop => if dataIdle s then exec .rxframe s else exec .rxbyte s
  | .finish => finishStep s
  | .fault => .fault .rxOverflow

/-- The instant of the next transition; `none` if there is none (a hang, an idle block without commands, FAULT). -/
def nextInstant (s : State) : Option Nat :=
  match s.phase with
  | .idle =>
    match s.env.commands with
    | [] => none
    | h :: _ => some (max h.issue s.now)
  | .attnPoll => s.env.attn.first s.cfg.attnAssert s.now
  | .hsAck => s.env.attn.first (!s.cfg.attnAssert) s.now
  | .firstStart => s.env.data.first (!s.cfg.dataIdle) s.now
  | .byteHalf => some (s.now + tHalf)
  | .byteBits => some (if s.bitcnt.toNat < nBits then s.now + tBit else s.now)
  | .byteStop => s.env.data.first s.cfg.dataIdle s.now
  | .gap => some (s.now + boundedDelay s.env.data (!s.cfg.dataIdle) tGap s.now)
  | .finish => some s.now
  | .fault => none

/-- The instant of the RESET that comes before the next transition, if one does: RESET can happen at any instant, in
any phase (70_reset_and_hazards.md R220). At an equal instant RESET comes first (log entry 12). -/
def resetDue (s : State) : Option Nat :=
  match s.env.resets with
  | [] => none
  | r :: _ =>
    match nextInstant s with
    | none => some (max r s.now)
    | some t => if r ≤ t then some (max r s.now) else none

/-- One step: a configuration that breaks 00_scope.md R9 is refused (U12); a RESET that is due happens; otherwise the
sequencer takes its next transition. -/
def machineStep (s : State) : Result :=
  if s.cfg.valid then
    match resetDue s with
    | some t => .next (applyReset t s)
    | none => sequencerStep s
  else .refused .badConfiguration

/-- Where the words of an instruction stand for the next step to run them (log entry 18): a command at the head of the
host's queue, at the present instant; a packet in RXBUF, with PHASE FINISH; a scan code as the third byte of a packet,
and in SCAN. A character frame and a result word are not fetched from State. -/
def placeEncoded (s : State) : Encoded → State
  | .command w =>
    { s with phase := .idle, env := { s.env with commands := ⟨s.now, w⟩ :: s.env.commands, resets := [] } }
  | .packet bytes =>
    { s with
      phase := .finish
      rxlen := BitVec.ofNat 4 bytes.length
      rxbuf := (bytes.zipIdx).foldl (fun m b => m.write b.2 b.1) s.rxbuf
      env := { s.env with resets := [] } }
  | .scanCode code =>
    { s with
      phase := .finish
      rxlen := 3
      rxbuf := ((s.rxbuf.write 0 preamble0).write 1 preamble1).write 2 code
      scan := code
      env := { s.env with resets := [] } }
  | .frame _ => s
  | .result _ => s

/-- A table word placed where the next step fetches it. -/
def placeWord (s : State) (nbits w : Nat) : State :=
  match tableWord nbits w with
  | some e => placeEncoded s e
  | none => s

end Sys2Proof.Machine
end

