-- ==== Sys2Proof/Machine/Step.lean ====
section
/-! DEFINITION. The step of the machine, and the host's way of placing a word. -/

namespace Sys2Proof.Machine

/-- One step (43_key_decoder.md R172, 70_reset_and_hazards.md R220). -/
def step (s : State) : Host.Outcome State Fault Refusal := machineStep s

/-- The state with a table word stored where `step` fetches its next instruction (log entry 18). -/
def State.withFetchWord (s : State) (nbits w : Nat) : State := placeWord s nbits w

end Sys2Proof.Machine
end

