-- ==== Sys2Proof/Machine/Stimulus.lean ====
section
/-! DEFINITION. The stimulus notation TX(bytes, s0) of 30_encoding.md R84: the DATA waveform of a transmitter. It is no
part of the machine; statements and tests use it to say what stands on the line. -/

namespace Sys2Proof.Machine

/-- One byte sent from instant `t` with bit period `p` by a transmitter whose idle level is `idle`: the active level,
the eight bits, bit 7 first, the idle level, each for one period. -/
def txByte (idle : Level) (p : Nat) (b : Byte) (t : Nat) : List (Nat × Level) :=
  [(t, !idle), (t + p, b.getLsbD 7), (t + 2 * p, b.getLsbD 6), (t + 3 * p, b.getLsbD 5), (t + 4 * p, b.getLsbD 4),
   (t + 5 * p, b.getLsbD 3), (t + 6 * p, b.getLsbD 2), (t + 7 * p, b.getLsbD 1), (t + 8 * p, b.getLsbD 0),
   (t + 9 * p, idle)]

/-- Bytes sent back to back from instant `t`, ten bit periods apart. -/
def txBytes (idle : Level) (p : Nat) : List Byte → Nat → List (Nat × Level)
  | [], _ => []
  | b :: bs, t => txByte idle p b t ++ txBytes idle p bs (t + 10 * p)

/-- `TX(bytes, t)` with the nominal bit period (30_encoding.md R84). -/
def txWave (idle : Level) (bytes : List Byte) (t : Nat) : Wave := ⟨idle, txBytes idle tBit bytes t, none⟩

/-- `PKT(code)` as bytes in the order sent (30_encoding.md R81). -/
def packetBytes (code : Byte) : List Byte := [preamble0, preamble1, code]

end Sys2Proof.Machine
end

