-- ==== Sys2Proof/Safety.lean ====
section
/-! DEFINITION. What claims speak of: runs of several steps, the invariant of the machine (10_state.md), the phase graph
(43_key_decoder.md R172), and DECODE as a function of configuration, flags and scan code (R166). -/

namespace Sys2Proof.Machine

/-- `n` steps of the machine, stopping at the first fault or refusal. -/
def runSteps : Nat → State → Result
  | 0, s => .next s
  | n + 1, s => andThen (step s) (runSteps n)

/-- One operation taken `n` times: the transitions of RXBYTE or RXFRAME in a row. -/
def repeatExec (i : Instr) : Nat → State → Result
  | 0, s => .next s
  | n + 1, s => andThen (exec i s) (repeatExec i n)

/-- What PHASE says of RXLEN, BITCNT and CMD.blocking (10_state.md R22, R24, R27; 41_frame_assembler.md R128, R130). -/
def phaseOk (s : State) : Prop :=
  match s.phase with
  | .idle => True
  | .attnPoll => s.rxlen = 0 ∧ s.cmdBlocking = true
  | .hsAck => s.rxlen = 0
  | .firstStart => s.rxlen = 0
  | .byteHalf => True
  | .byteBits => s.bitcnt.toNat < nBits
  | .byteStop => s.bitcnt.toNat = nBits
  | .gap => 1 ≤ s.rxlen.toNat
  | .finish => 1 ≤ s.rxlen.toNat
  | .fault => s.rxlen.toNat = bufCap

/-- The invariant of the machine. -/
structure MachineInv (s : State) : Prop where
  /-- RXBUF is in its canonical form (20_memory.md R58). -/
  memory    : s.rxbuf.wf
  /-- RXLEN is 0 to 10 (10_state.md R22). -/
  length    : s.rxlen.toNat ≤ bufCap
  /-- Cells RXBUF[0] to RXBUF[RXLEN - 1] hold values (10_state.md R22). -/
  written   : ∀ i, i < s.rxlen.toNat → ∃ b, s.rxbuf.read i = some b
  /-- BITCNT is 0 to 8 (10_state.md R24). -/
  bits      : s.bitcnt.toNat ≤ nBits
  /-- EVENT[15:12] is 0 (10_state.md R30). -/
  eventTop  : s.event.extractLsb' 12 4 = 0
  /-- REQ is asserted in HS_ACK and in no other phase (10_state.md R32). -/
  req       : s.req = s.cfg.reqAssert ↔ s.phase = .hsAck
  /-- What PHASE says of the counters. -/
  phase     : phaseOk s

/-- The edges of the phase graph (43_key_decoder.md R172). -/
def graphEdge : Phase → Phase → Bool
  | .idle, q => q == .idle || q == .hsAck || q == .attnPoll
  | .attnPoll, q => q == .hsAck
  | .hsAck, q => q == .firstStart
  | .firstStart, q => q == .byteHalf
  | .byteHalf, q => q == .byteBits
  | .byteBits, q => q == .byteBits || q == .byteStop
  | .byteStop, q => q == .gap || q == .fault
  | .gap, q => q == .byteHalf || q == .finish
  | .finish, q => q == .idle
  | .fault, _ => false

/-- DECODE as a function (43_key_decoder.md R166): the flags after it and the result, from the configuration, the flags
and the scan code. Written from the pseudocode, apart from the meanings. -/
def decodeFunction (c : Config) (m : Mods) (code : Byte) : Mods × Word16 :=
  if code = 0x00 then (m, 0x0000)
  else if code = c.scShiftPress then ({ m with shift := true }, 0x0000)
  else if code = c.scShiftRelease then ({ m with shift := false }, 0x0000)
  else if code = c.scCtrlPress then ({ m with ctrl := true }, 0x0000)
  else if code = c.scCtrlRelease then ({ m with ctrl := false }, 0x0000)
  else if code = c.scAltPress then ({ m with alt := true }, 0x0000)
  else if code = c.scAltRelease then ({ m with alt := false }, 0x0000)
  else if code = c.scFnPress then ({ m with fn := true }, 0x0000)
  else if code = c.scFnRelease then ({ m with fn := false }, 0x0000)
  else if code = c.scCaps then ({ m with caps := !m.caps }, 0x0000)
  else if code = c.scKeyReleased then (m, 0x0000)
  else
    let ch : Byte :=
      match c.lookup code with
      | none => 0x00
      | some e =>
        if m.shift = true then
          match e.shifted with
          | some ch => ch
          | none => e.unshifted
        else if m.ctrl = true ∧ 97 ≤ e.unshifted.toNat ∧ e.unshifted.toNat ≤ 125 then
          BitVec.ofNat 8 (e.unshifted.toNat - 96)
        else e.unshifted
    (m, encodeResult m.fn m.alt m.ctrl m.shift ch)

/-- The eight samples of a character whose start condition is seen at `t0`, as a byte (40_bit_sampler.md R102, R103):
the level of DATA at t0 + 52083 + k * 104166 for k = 1 to 8, the first in bit 7. -/
def sampledByte (w : Wave) (t0 : Nat) : Byte :=
  byteOfBits (w.level (t0 + 156249)) (w.level (t0 + 260415)) (w.level (t0 + 364581)) (w.level (t0 + 468747))
    (w.level (t0 + 572913)) (w.level (t0 + 677079)) (w.level (t0 + 781245)) (w.level (t0 + 885411))

/-- `u` is the least instant from `t` on at which the line reads `v` (00_scope.md R12, `wait_until`). -/
def firstInstant (w : Wave) (v : Level) (t u : Nat) : Prop :=
  t ≤ u ∧ w.level u = v ∧ ∀ x, t ≤ x → x < u → w.level x ≠ v

/-- The line never reads `v` from `t` on: a wait for it hangs (60_exceptions.md R198). -/
def neverReads (w : Wave) (v : Level) (t : Nat) : Prop := ∀ x, t ≤ x → w.level x ≠ v

/-- The bytes of the burst that RXBUF holds: the cells below RXLEN, in the order received (10_state.md R22). -/
def burstBytes (s : State) : List Byte := (List.range s.rxlen.toNat).filterMap (fun i => s.rxbuf.read i)

end Sys2Proof.Machine
end

