-- ==== Sys2Proof/Certificates/Slice0/Obligations.lean ====
section
/-! DEFINITION. The statements about KBDRX, each citing the rules of spec/ it comes from. -/

open Sys2Proof Sys2Proof.Machine

/-! ### A step runs the instruction it fetches (43_key_decoder.md R151, R172) -/

/-- In IDLE, when the next command is not before the present instant and no RESET comes first, the step moves to the
instant of issue, takes the command off the queue and runs the decoded command. The queue of commands is the model's choice (log entry
13). -/
def Obligations.StepRunsIssuedCommand : Prop :=
  ∀ (s : State) (h : HostCommand) (rest : List HostCommand) (i : Instr),
    s.cfg.valid = true → resetDue s = none → s.phase = .idle → s.env.commands = h :: rest → s.now ≤ h.issue →
    decode s.cfg (.command h.word) = .ok i →
    i.wellFormed s.cfg = true ∧ step s = exec i { s with now := h.issue, env := { s.env with commands := rest } }

/-- In FINISH the step runs VALIDATE and then the instruction that the scan code in SCAN decodes to. -/
def Obligations.StepRunsReceivedScanCode : Prop :=
  ∀ (s t : State) (i : Instr),
    s.cfg.valid = true → resetDue s = none → s.phase = .finish → exec .validate s = .next t →
    decode t.cfg (.scanCode t.scan) = .ok i →
    i.wellFormed t.cfg = true ∧ step s = exec i t

/-- In the phases of the handshake, of the start conditions and of the gap the step runs RXFRAME; in RXBYTE's phases it
runs RXBYTE, which has returned once DATA reads idle in BYTE_STOP. One transition a step, and the split of BYTE_STOP, are the
model's (log entries 8 and 9). -/
def Obligations.StepRunsSequencerOperation : Prop :=
  ∀ s : State, s.cfg.valid = true → resetDue s = none →
    ((s.phase = .attnPoll ∨ s.phase = .hsAck ∨ s.phase = .firstStart ∨ s.phase = .gap) → step s = exec .rxframe s) ∧
    ((s.phase = .byteHalf ∨ s.phase = .byteBits) → step s = exec .rxbyte s) ∧
    (s.phase = .byteStop → s.env.data.level s.now = s.cfg.dataIdle → step s = exec .rxframe s) ∧
    (s.phase = .byteStop → s.env.data.level s.now ≠ s.cfg.dataIdle → step s = exec .rxbyte s)

/-! ### Encodings (30_encoding.md) -/

/-- Words written out from the tables of 30_encoding.md decode to the instructions they stand for, under CFG-T. A character
frame as a word of ten symbols is the model's choice (log entry 28). -/
def Obligations.EncodedWordsDecodeAsTheTableSays : Prop :=
  decode cfgT (.command 0b0) = .ok .getkeyNb ∧
  decode cfgT (.command 0b1) = .ok .getkeyB ∧
  decode cfgT (.frame [false, false, false, false, true, false, true, false, true, true]) = .ok (.char 0b00010101) ∧
  decode cfgT (.packet [0b00010101, 0b00110101, 0b00010111]) = .ok (.pkt 0b00010111) ∧
  decode cfgT (.packet [0b00010101, 0b00110100, 0b00010111]) = .error .badPreamble ∧
  decode cfgT (.scanCode 0b00000000) = .ok .nokey ∧
  decode cfgT (.scanCode 0b10000001) = .ok .shiftDn ∧
  decode cfgT (.scanCode 0b00010111) = .ok .keyQ ∧
  decode cfgT (.scanCode 0b00110000) = .ok (.key 0b00110000) ∧
  decode cfgT (.result 0b0000001000010011) = .ok (.event false false true false 0b00010011)

/-- 30_encoding.md R77: the value of CMD.blocking selects the mode of the one command. -/
def Obligations.CommandBitSelectsTheMode : Prop :=
  ∀ (c : Config) (w : BitVec 1),
    (w = 0 → decode c (.command w) = .ok .getkeyNb) ∧ (w = 1 → decode c (.command w) = .ok .getkeyB) ∧
    ∀ i, decode c (.command w) = .ok i → i = .getkeyNb ∨ i = .getkeyB

/-- Decoding the words of a well-formed instruction gives it back, with every operand at every value, under every
configuration of 00_scope.md R9; only the four internal operations have no words. A character frame as a word of ten
symbols is the model's choice (log entry 28). -/
def Obligations.DecodeOfEncodeIsIdentity : Prop :=
  ∀ (c : Config) (i : Instr), c.valid = true → i.wellFormed c = true →
    (i.format ≠ .internal → ∃ e, encode c i = some e) ∧ ∀ e, encode c i = some e → decode c e = .ok i

/-- What decodes is well formed and encodes back to the same words; a packet to its first three bytes, the bytes from
index 3 on being ignored (30_encoding.md R73, R80). That a character frame decodes from ten symbols and from no other list is
the model's choice (log entry 28), where R71 gives the stop condition no time. -/
def Obligations.DecodedWordsReencode : Prop :=
  ∀ (c : Config) (e : Encoded) (i : Instr), decode c e = .ok i →
    i.wellFormed c = true ∧ i.format = e.format ∧
    ((∀ bytes, e ≠ .packet bytes) → encode c i = some e) ∧
    (∀ bytes, e = .packet bytes →
      ∃ code rest, i = .pkt code ∧ bytes = packetBytes code ++ rest ∧ bytes.length ≤ bufCap)

/-- The scan-code map of 30_encoding.md R78 under a configuration of 00_scope.md R9: 0x00 is NOKEY, each dedicated code
selects its own class whatever the order of the tests, and every other code is of the KEY class. -/
def Obligations.ScanCodesSelectTheirClass : Prop :=
  ∀ c : Config, c.valid = true →
    decode c (.scanCode 0x00) = .ok .nokey ∧
    decode c (.scanCode c.scShiftPress) = .ok .shiftDn ∧ decode c (.scanCode c.scShiftRelease) = .ok .shiftUp ∧
    decode c (.scanCode c.scCtrlPress) = .ok .ctrlDn ∧ decode c (.scanCode c.scCtrlRelease) = .ok .ctrlUp ∧
    decode c (.scanCode c.scAltPress) = .ok .altDn ∧ decode c (.scanCode c.scAltRelease) = .ok .altUp ∧
    decode c (.scanCode c.scFnPress) = .ok .fnDn ∧ decode c (.scanCode c.scFnRelease) = .ok .fnUp ∧
    decode c (.scanCode c.scCaps) = .ok .caps ∧ decode c (.scanCode c.scKeyReleased) = .ok .keyup ∧
    ∀ code, code ≠ 0x00 → code ∉ c.dedicated →
      decode c (.scanCode code) =
        .ok (if code = 0x17 then .keyQ else if code = 0x27 then .keyS else .key code)

/-! ### Reset (10_state.md R37, 70_reset_and_hazards.md R220, R221) -/

/-- State.reset holds the values the spec gives for reset. -/
def Obligations.ResetStateHasTheSpecValues : Prop :=
  State.reset.phase = .idle ∧ State.reset.req ≠ State.reset.cfg.reqAssert ∧ State.reset.mods = Mods.none ∧
  State.reset.rxlen = 0 ∧ State.reset.event = 0x0000

/-- The next RESET to come, when no transition comes before it, in any phase, FINISH, FAULT and a hang included
(70_reset_and_hazards.md R220), leaves the values of R221: PHASE IDLE, REQ deasserted, the five flags 0, RXLEN 0, EVENT
0x0000; the configuration is not touched. The list of RESETs to come, that a RESET at the instant of a transition comes
first and that one in the past happens now are the model's choices (log entry 12), and so is the instant afterwards (log
entry 5). -/
def Obligations.ResetAtAnyInstant : Prop :=
  ∀ (s : State) (r : Nat) (rest : List Nat),
    s.cfg.valid = true → s.env.resets = r :: rest → (∀ u, nextInstant s = some u → r ≤ u) →
    ∃ t, step s = .next t ∧ t.phase = .idle ∧ t.req = (!s.cfg.reqAssert) ∧
      t.mods.shift = false ∧ t.mods.ctrl = false ∧ t.mods.alt = false ∧ t.mods.fn = false ∧ t.mods.caps = false ∧
      t.rxlen = 0 ∧ t.event = 0x0000 ∧ t.now = max r s.now ∧ t.cfg = s.cfg ∧ t.env = { s.env with resets := rest }

/-! ### The command GETKEY (43_key_decoder.md R150 to R153) -/

/-- The four transitions a GETKEY issued in IDLE takes (43_key_decoder.md R172, R153): nothing pending completes the
non-blocking command at once with EVENT 0x0000 and leaves REQ and MOD alone; the blocking one polls; with ATTN asserted
both assert REQ at the instant of issue. -/
def Obligations.GetkeyIssueTransitions : Prop :=
  ∀ s : State, s.phase = .idle →
    (s.env.attn.level s.now ≠ s.cfg.attnAssert →
      exec .getkeyNb s = .next { s with cmdBlocking := false, rxlen := 0, event := 0x0000, phase := .idle } ∧
      exec .getkeyB s = .next { s with cmdBlocking := true, rxlen := 0, phase := .attnPoll }) ∧
    (s.env.attn.level s.now = s.cfg.attnAssert →
      exec .getkeyNb s =
        .next { s with cmdBlocking := false, rxlen := 0, req := s.cfg.reqAssert, phase := .hsAck } ∧
      exec .getkeyB s =
        .next { s with cmdBlocking := true, rxlen := 0, req := s.cfg.reqAssert, phase := .hsAck })

/-- A GETKEY issued while PHASE is not IDLE is refused, with no move (60_exceptions.md R199, D21, U14), and so is a
command whose instant of issue lies before the completion of the one before it. That a late command stops the run by that
refusal is the model's choice (log entry 13). -/
def Obligations.GetkeyWhileBusyIsRefused : Prop :=
  ∀ s : State,
    (s.phase ≠ .idle →
      exec .getkeyNb s = .refused .getkeyWhileBusy ∧ exec .getkeyB s = .refused .getkeyWhileBusy) ∧
    (s.cfg.valid = true → resetDue s = none → s.phase = .idle →
      ∀ h rest, s.env.commands = h :: rest → h.issue < s.now → step s = .refused .getkeyWhileBusy)

/-- GETKEY.B is the wait for attention followed by GETKEY.NB (30_encoding.md R82, 43_key_decoder.md R152): where ATTN is
not asserted at the issue and `u` is the least later instant at which it is, the blocking command polls, and its next
transition leaves what GETKEY.NB issued at `u` leaves, but for CMD.blocking. -/
def Obligations.BlockingCommandIsPollThenNonblocking : Prop :=
  ∀ (s : State) (u : Nat), s.phase = .idle → s.env.attn.level s.now ≠ s.cfg.attnAssert →
    firstInstant s.env.attn s.cfg.attnAssert s.now u →
    ∃ p q r, exec .getkeyB s = .next p ∧ p.phase = .attnPoll ∧ exec .rxframe p = .next q ∧
      exec .getkeyNb { s with now := u } = .next r ∧ q = { r with cmdBlocking := true } ∧ q.phase = .hsAck

/-! ### RXFRAME (41_frame_assembler.md) -/

/-- Entered in IDLE, RXFRAME clears RXLEN and looks at ATTN once: not asserted, it returns at once having driven
nothing; asserted, it asserts REQ at that instant (41_frame_assembler.md R122, R124). -/
def Obligations.RxframeLooksOnceAtAttention : Prop :=
  ∀ s : State, s.phase = .idle →
    (s.env.attn.level s.now ≠ s.cfg.attnAssert → exec .rxframe s = .next { s with rxlen := 0 }) ∧
    (s.env.attn.level s.now = s.cfg.attnAssert →
      exec .rxframe s = .next { s with rxlen := 0, req := s.cfg.reqAssert, phase := .hsAck })

/-- In ATTN_POLL the wait ends at the least instant at which ATTN reads asserted, with REQ asserted at that instant
(43_key_decoder.md R152). -/
def Obligations.AttentionPollAcknowledges : Prop :=
  ∀ (s : State) (u : Nat), s.phase = .attnPoll → firstInstant s.env.attn s.cfg.attnAssert s.now u →
    exec .rxframe s = .next { s with now := u, req := s.cfg.reqAssert, phase := .hsAck }

/-- In HS_ACK, REQ is deasserted at the least instant at which ATTN reads deasserted; if there is none, RXFRAME stays in
HS_ACK (41_frame_assembler.md R123). That it then answers the same state, the instant included, is the model's choice (log
entry 10). -/
def Obligations.HandshakeReleasesAtDeassertion : Prop :=
  ∀ s : State, s.phase = .hsAck →
    (∀ u, firstInstant s.env.attn (!s.cfg.attnAssert) s.now u →
      exec .rxframe s = .next { s with now := u, req := !s.cfg.reqAssert, phase := .firstStart }) ∧
    (neverReads s.env.attn (!s.cfg.attnAssert) s.now → exec .rxframe s = .next s)

/-- In FIRST_START the start condition is the least instant, the present one included, at which DATA reads active; with
none, RXFRAME never returns: T_GAP does not apply (41_frame_assembler.md R125, 30_encoding.md R71). That it then answers
the same state, the instant included, is the model's choice (log entry 10). -/
def Obligations.FirstStartConditionBeginsByte : Prop :=
  ∀ s : State, s.phase = .firstStart →
    (∀ u, firstInstant s.env.data (!s.cfg.dataIdle) s.now u →
      exec .rxframe s = .next { s with now := u, phase := .byteHalf }) ∧
    (neverReads s.env.data (!s.cfg.dataIdle) s.now → exec .rxframe s = .next s)

/-- The store (41_frame_assembler.md R127): the byte goes to RXBUF[RXLEN], every other cell reads as before, RXLEN grows
by 1, in zero time. -/
def Obligations.ReceivedByteIsStored : Prop :=
  ∀ s : State, s.phase = .byteStop → s.env.data.level s.now = s.cfg.dataIdle → s.rxlen.toNat < bufCap →
    ∃ t, exec .rxframe s = .next t ∧
      t.rxbuf.read (storeIndex s) = some s.shreg ∧
      (∀ a, a ≠ storeIndex s → t.rxbuf.read a = s.rxbuf.read a) ∧
      t.rxlen.toNat = s.rxlen.toNat + 1 ∧
      t = { s with rxbuf := t.rxbuf, rxlen := t.rxlen, phase := .gap }

/-- RX_OVERFLOW (41_frame_assembler.md R128, 60_exceptions.md R197): a byte received while RXLEN is 10 is not stored, PHASE
becomes FAULT and nothing else changes; no step leaves FAULT while no RESET is to come. That the overflow is a next state in FAULT and that later
steps and operations answer the fault, where the spec gives the step no next state (U1), is the model's choice (log entry
11). -/
def Obligations.EleventhByteIsTheOverflowFault : Prop :=
  ∀ s : State, s.phase = .byteStop → s.env.data.level s.now = s.cfg.dataIdle → s.rxlen.toNat = bufCap →
    exec .rxframe s = .next { s with phase := .fault } ∧
    (s.cfg.valid = true → s.env.resets = [] →
      step { s with phase := .fault } = .fault .rxOverflow ∧
      exec .rxframe { s with phase := .fault } = .fault .rxOverflow)

/-- The gap (41_frame_assembler.md R129): a start condition at elapsed time below T_GAP begins the next byte at the least
such instant; DATA idle throughout the window ends the burst at its end. Nothing else changes but TIMER. -/
def Obligations.GapEndsWithStartOrSilence : Prop :=
  ∀ s : State, s.phase = .gap →
    (∀ u, firstInstant s.env.data (!s.cfg.dataIdle) s.now u → u < s.now + 2000000 →
      ∃ t, exec .rxframe s = .next t ∧ t = { s with now := u, timer := t.timer, phase := .byteHalf }) ∧
    ((∀ x, s.now ≤ x → x < s.now + 2000000 → s.env.data.level x = s.cfg.dataIdle) →
      ∃ t, exec .rxframe s = .next t ∧ t = { s with now := s.now + 2000000, timer := t.timer, phase := .finish })

/-- TIMER after a timed wait (10_state.md R25): the nanoseconds the wait lasted, for the half bit, the bit and the gap. That
TIMER counts elapsed nanoseconds and keeps them after the wait is the model's choice (log entry 14). -/
def Obligations.TimerHoldsTheTimeMeasured : Prop :=
  ∀ s : State,
    ((s.phase = .byteHalf ∨ (s.phase = .byteBits ∧ s.bitcnt.toNat < 8)) →
      ∃ t, exec .rxbyte s = .next t ∧ t.now = s.now + t.timer.toNat) ∧
    (s.phase = .gap → ∃ t, exec .rxframe s = .next t ∧ t.now = s.now + t.timer.toNat ∧ t.timer.toNat ≤ 2000000)

/-- RXFRAME writes RXLEN, RXBUF, REQ, PHASE and, through RXBYTE, SHREG, BITCNT and TIMER: it touches no flag, nor SCAN,
EVENT or CMD, and writes no cell of RXBUF but RXBUF[RXLEN] (41_frame_assembler.md R132, 10_state.md R21). -/
def Obligations.RxframeWritesNothingElse : Prop :=
  ∀ s t : State, exec .rxframe s = .next t →
    t.mods = s.mods ∧ t.scan = s.scan ∧ t.event = s.event ∧ t.cmdBlocking = s.cmdBlocking ∧ t.cfg = s.cfg ∧
    t.env = s.env ∧ s.now ≤ t.now ∧
    (∀ a, (a = storeIndex s ∧ s.phase = .byteStop) ∨ t.rxbuf.read a = s.rxbuf.read a)

/-! ### RXBYTE and CHAR (40_bit_sampler.md) -/

/-- The half-bit wait (40_bit_sampler.md R101): T_HALF later SHREG and BITCNT are 0. What TIMER holds is the model's choice
(log entry 14). -/
def Obligations.RxbyteWaitsHalfABit : Prop :=
  ∀ s : State, s.phase = .byteHalf →
    exec .rxbyte s =
      .next { s with now := s.now + 52083, timer := 52083, shreg := 0x00, bitcnt := 0, phase := .byteBits }

/-- One sample (40_bit_sampler.md R101, R103, R104): one bit period later the raw level of DATA enters SHREG at bit 0, the
other bits move up one place, BITCNT grows by 1, and the eighth sample enters BYTE_STOP. -/
def Obligations.RxbyteTakesOneSample : Prop :=
  ∀ s : State, s.phase = .byteBits → s.bitcnt.toNat < 8 →
    ∃ t, exec .rxbyte s = .next t ∧
      t.shreg.getLsbD 0 = s.env.data.level (s.now + 104166) ∧
      (∀ k, k < 7 → t.shreg.getLsbD (k + 1) = s.shreg.getLsbD k) ∧
      t.bitcnt.toNat = s.bitcnt.toNat + 1 ∧
      t = { s with
        shreg := t.shreg
        bitcnt := t.bitcnt
        now := s.now + 104166
        timer := t.timer
        phase := if s.bitcnt.toNat = 7 then .byteStop else .byteBits }

/-- RXBYTE entered at `t0` (40_bit_sampler.md R101 to R103, 30_encoding.md R72): nine transitions leave in SHREG the eight
levels DATA has at exactly t0 + 52083 + k * 104166, the first in bit 7, whatever DATA does in between, at the instant of
the eighth sample, with BITCNT 8 and nothing else changed but TIMER. -/
def Obligations.RxbyteReceivesEightSamples : Prop :=
  ∀ s : State, s.phase = .byteHalf →
    ∃ t, repeatExec .rxbyte 9 s = .next t ∧ t.shreg = sampledByte s.env.data s.now ∧
      t = { s with
        shreg := t.shreg
        bitcnt := 8
        timer := t.timer
        now := s.now + 885411
        phase := .byteStop }

/-- The stop condition (40_bit_sampler.md R105): RXBYTE returns at the least instant, the present one included, at which
DATA reads idle, with no timeout; if there is none it never returns. That the return is a transition of its own, which stays
in BYTE_STOP, is the model's (log entry 9); that it answers the same state when it never returns is the model's choice (log
entry 10). -/
def Obligations.RxbyteWaitsForTheStopCondition : Prop :=
  ∀ s : State, s.phase = .byteStop →
    (∀ u, firstInstant s.env.data s.cfg.dataIdle s.now u → exec .rxbyte s = .next { s with now := u }) ∧
    (neverReads s.env.data s.cfg.dataIdle s.now → exec .rxbyte s = .next s)

/-- RXBYTE writes SHREG, BITCNT, TIMER and PHASE and nothing else, and raises no fault in its own phases
(40_bit_sampler.md R107). In BYTE_STOP, where R107 says that it can hang, the next state of a hang is the model's choice
(log entry 10). -/
def Obligations.RxbyteWritesNothingElse : Prop :=
  ∀ s : State,
    (∀ t, exec .rxbyte s = .next t →
      t = { s with shreg := t.shreg, bitcnt := t.bitcnt, timer := t.timer, phase := t.phase, now := t.now } ∧
      s.now ≤ t.now) ∧
    ((s.phase = .byteHalf ∨ s.phase = .byteBits ∨ s.phase = .byteStop) → ∃ t, exec .rxbyte s = .next t)

/-- CHAR (30_encoding.md R71, 40_bit_sampler.md R101): a frame with given data bits, from its start condition to its stop
condition, the least instant from the eighth sample on at which DATA reads idle. CHAR as one operation, and what TIMER holds
after it, are the model's choices (log entries 16 and 14). On a line that never reads idle R105 says that it never returns; the
state answered there, at the eighth sample in BYTE_STOP, is the model's choice (log entry 10). -/
def Obligations.CharIsReceivedWhole : Prop :=
  ∀ (s : State) (b : Byte), s.phase = .byteHalf →
    (∀ u, firstInstant s.env.data s.cfg.dataIdle (s.now + 885411) u →
      exec (.char b) s = .next { s with shreg := b, bitcnt := 8, timer := 104166, now := u, phase := .byteStop }) ∧
    (neverReads s.env.data s.cfg.dataIdle (s.now + 885411) →
      exec (.char b) s =
        .next { s with shreg := b, bitcnt := 8, timer := 104166, now := s.now + 885411, phase := .byteStop })

/-- RXBYTE receives the character that stands on the line: its ten transitions from the start condition are the CHAR
whose data bits are the eight samples (40_bit_sampler.md R101, 30_encoding.md R71, R72). CHAR as one operation is the model's
choice (log entry 16). -/
def Obligations.RxbyteReceivesTheCharacterOnTheLine : Prop :=
  ∀ s : State, s.phase = .byteHalf →
    repeatExec .rxbyte 10 s = exec (.char (sampledByte s.env.data s.now)) s

/-- A byte sent with a bit period of 98380 to 110676 ns is received as sent, whatever the idle level, whatever the line did
up to its start and whatever follows, without end if need be (30_encoding.md R71, 70_reset_and_hazards.md R241). -/
def Obligations.TransmittedByteIsReceived : Prop :=
  ∀ (s : State) (b : Byte) (p : Nat) (before : Level) (earlier later : List (Nat × Level))
      (tail : Option Nat),
    s.phase = .byteHalf → 98380 ≤ p → p ≤ 110676 →
    s.env.data = ⟨before, earlier ++ (txByte s.cfg.dataIdle p b s.now ++ later), tail⟩ →
    (∀ x ∈ earlier, x.1 ≤ s.now) → (∀ x ∈ later.head?, s.now + 10 * p ≤ x.1) →
    ∃ t, repeatExec .rxbyte 9 s = .next t ∧ t.shreg = b

/-! ### VALIDATE and PKT (42_packet_validator.md) -/

/-- VALIDATE (42_packet_validator.md R141): with the three cells holding values, SCAN becomes the third byte exactly when
RXLEN is at least 3 and the first two are 0x15, 0x35, else 0x00; with RXLEN below 3 no cell matters. -/
def Obligations.ValidateYieldsTheScanCode : Prop :=
  ∀ s : State,
    (∀ b0 b1 b2, s.rxbuf.read 0 = some b0 → s.rxbuf.read 1 = some b1 → s.rxbuf.read 2 = some b2 →
      exec .validate s =
        .next { s with scan := if 3 ≤ s.rxlen.toNat ∧ b0 = 0x15 ∧ b1 = 0x35 then b2 else 0x00 }) ∧
    (s.rxlen.toNat < 3 → exec .validate s = .next { s with scan := 0x00 })

/-- PKT yields its scan code and changes nothing else, as VALIDATE does on a buffer that holds the packet
(42_packet_validator.md R141, R144). What the row PKT does as an instruction is the model's choice (log entry 16). -/
def Obligations.PacketYieldsItsScanCode : Prop :=
  ∀ (s : State) (code : Byte),
    exec (.pkt code) s = .next { s with scan := code } ∧
    (3 ≤ s.rxlen.toNat → s.rxbuf.read 0 = some 0x15 → s.rxbuf.read 1 = some 0x35 → s.rxbuf.read 2 = some code →
      exec .validate s = exec (.pkt code) s)

/-- VALIDATE writes SCAN and nothing else (42_packet_validator.md R144). -/
def Obligations.ValidateWritesScanOnly : Prop :=
  ∀ s t : State, exec .validate s = .next t → t = { s with scan := t.scan }

/-- VALIDATE reads the packet format of 30_encoding.md R73: on a burst in RXBUF it does what the packet its bytes decode
to does, and yields 0x00 when they decode to none (R80, 42_packet_validator.md R143). -/
def Obligations.ValidateDecodesTheBurst : Prop :=
  ∀ s : State, MachineInv s →
    (∀ i, decode s.cfg (.packet (burstBytes s)) = .ok i → exec .validate s = exec i s) ∧
    (∀ e, decode s.cfg (.packet (burstBytes s)) = .error e → exec .validate s = .next { s with scan := 0x00 })

/-! ### DECODE and the scan-code classes (43_key_decoder.md) -/

/-- DECODE does what its pseudocode says (43_key_decoder.md R166), for every configuration, flags and scan code, and
writes MOD, EVENT and PHASE only. That DECODE itself writes its result to EVENT and enters IDLE, which R151 does with the
value it returns, and does so in any phase, are the model's choices (log entries 16 and 15). -/
def Obligations.DecodeImplementsItsPseudocode : Prop :=
  ∀ s : State,
    exec .decode s =
      .next { s with
        mods := (decodeFunction s.cfg s.mods s.scan).1
        event := (decodeFunction s.cfg s.mods s.scan).2
        phase := .idle }

/-- DECODE runs the instruction its scan code decodes to (30_encoding.md R78, R79). -/
def Obligations.DecodeRunsTheSelectedInstruction : Prop :=
  ∀ (s : State) (i : Instr), decode s.cfg (.scanCode s.scan) = .ok i → exec .decode s = exec i s

/-- The scan-code instructions without an operand complete in every state: the flag update of their class,
the result in EVENT, PHASE IDLE, and nothing else (43_key_decoder.md R154 to R164). That they complete the command, and do so
in any phase, is the model's choice (log entries 15 and 16). -/
def Obligations.ScanInstructionsComplete : Prop :=
  ∀ s : State,
    exec .nokey s = .next { s with event := 0x0000, phase := .idle } ∧
    exec .shiftDn s = .next { s with mods := { s.mods with shift := true }, event := 0x0000, phase := .idle } ∧
    exec .shiftUp s = .next { s with mods := { s.mods with shift := false }, event := 0x0000, phase := .idle } ∧
    exec .ctrlDn s = .next { s with mods := { s.mods with ctrl := true }, event := 0x0000, phase := .idle } ∧
    exec .ctrlUp s = .next { s with mods := { s.mods with ctrl := false }, event := 0x0000, phase := .idle } ∧
    exec .altDn s = .next { s with mods := { s.mods with alt := true }, event := 0x0000, phase := .idle } ∧
    exec .altUp s = .next { s with mods := { s.mods with alt := false }, event := 0x0000, phase := .idle } ∧
    exec .fnDn s = .next { s with mods := { s.mods with fn := true }, event := 0x0000, phase := .idle } ∧
    exec .fnUp s = .next { s with mods := { s.mods with fn := false }, event := 0x0000, phase := .idle } ∧
    exec .caps s = .next { s with mods := { s.mods with caps := !s.mods.caps }, event := 0x0000, phase := .idle } ∧
    exec .keyup s = .next { s with event := 0x0000, phase := .idle }

/-- The press codes (43_key_decoder.md R155, R157, R159, R161): the flag becomes 1 whatever it was, the other flags stay,
the result is 0x0000. That DECODE enters IDLE, from any phase, is the model's choice (log entries 15 and 16). -/
def Obligations.PressCodesSetTheirFlag : Prop :=
  ∀ s : State, s.cfg.valid = true →
    (s.scan = s.cfg.scShiftPress →
      exec .decode s = .next { s with mods := { s.mods with shift := true }, event := 0x0000, phase := .idle }) ∧
    (s.scan = s.cfg.scCtrlPress →
      exec .decode s = .next { s with mods := { s.mods with ctrl := true }, event := 0x0000, phase := .idle }) ∧
    (s.scan = s.cfg.scAltPress →
      exec .decode s = .next { s with mods := { s.mods with alt := true }, event := 0x0000, phase := .idle }) ∧
    (s.scan = s.cfg.scFnPress →
      exec .decode s = .next { s with mods := { s.mods with fn := true }, event := 0x0000, phase := .idle })

/-- The release codes (43_key_decoder.md R156, R158, R160, R162): the flag becomes 0 whatever it was, the other flags
stay, the result is 0x0000. That DECODE enters IDLE, from any phase, is the model's choice (log entries 15 and 16). -/
def Obligations.ReleaseCodesClearTheirFlag : Prop :=
  ∀ s : State, s.cfg.valid = true →
    (s.scan = s.cfg.scShiftRelease →
      exec .decode s = .next { s with mods := { s.mods with shift := false }, event := 0x0000, phase := .idle }) ∧
    (s.scan = s.cfg.scCtrlRelease →
      exec .decode s = .next { s with mods := { s.mods with ctrl := false }, event := 0x0000, phase := .idle }) ∧
    (s.scan = s.cfg.scAltRelease →
      exec .decode s = .next { s with mods := { s.mods with alt := false }, event := 0x0000, phase := .idle }) ∧
    (s.scan = s.cfg.scFnRelease →
      exec .decode s = .next { s with mods := { s.mods with fn := false }, event := 0x0000, phase := .idle })

/-- CAPS (43_key_decoder.md R163): SC_CAPS inverts MOD.caps and returns 0x0000; and MOD.caps feeds nothing: inverted
before a DECODE, it changes neither the result nor what happens to another flag. That DECODE enters IDLE, from any phase, is
the model's choice (log entries 15 and 16). -/
def Obligations.CapsInvertsAndFeedsNothing : Prop :=
  ∀ s : State, s.cfg.valid = true →
    (s.scan = s.cfg.scCaps →
      exec .decode s =
        .next { s with mods := { s.mods with caps := !s.mods.caps }, event := 0x0000, phase := .idle }) ∧
    ∀ t, exec .decode s = .next t →
      exec .decode { s with mods := { s.mods with caps := !s.mods.caps } } =
        .next { t with mods := { t.mods with caps := !t.mods.caps } }

/-- NOKEY and KEYUP (43_key_decoder.md R154, R164): no flag changes and the result is 0x0000 whatever the flags are. That
DECODE enters IDLE, from any phase, is the model's choice (log entries 15 and 16). -/
def Obligations.NullCodesChangeNothing : Prop :=
  ∀ s : State, s.cfg.valid = true → (s.scan = 0x00 ∨ s.scan = s.cfg.scKeyReleased) →
    exec .decode s = .next { s with event := 0x0000, phase := .idle }

/-- The KEY class in every form (43_key_decoder.md R165, R167): a code that is not 0x00 and not dedicated writes no flag;
EVENT[11:8] reports fn, alt, ctrl, shift as they are, whatever the character, and EVENT[15:12] is 0; with other values of
alt and fn the character is the same. That DECODE enters IDLE, from any phase, is the model's choice (log entries 15
and 16). -/
def Obligations.KeyReportsTheModifierMask : Prop :=
  ∀ s : State, s.scan ≠ 0x00 → s.scan ∉ s.cfg.dedicated →
    ∃ t, exec .decode s = .next t ∧ t = { s with event := t.event, phase := .idle } ∧
      t.event.getLsbD 8 = s.mods.shift ∧ t.event.getLsbD 9 = s.mods.ctrl ∧ t.event.getLsbD 10 = s.mods.alt ∧
      t.event.getLsbD 11 = s.mods.fn ∧ t.event.extractLsb' 12 4 = 0 ∧
      ∀ a f, ∃ u, exec .decode { s with mods := { s.mods with alt := a, fn := f } } = .next u ∧
        u.event.extractLsb' 0 8 = t.event.extractLsb' 0 8

/-- The KEY class with shift active (43_key_decoder.md R168): the shifted character if the entry has one, else the
unshifted one, with no control conversion even when ctrl is active. -/
def Obligations.KeyWithShiftActive : Prop :=
  ∀ (s : State) (e : KeyEntry), s.scan ≠ 0x00 → s.scan ∉ s.cfg.dedicated → s.cfg.lookup s.scan = some e →
    s.mods.shift = true →
    ∃ t, exec .decode s = .next t ∧
      (∀ ch, e.shifted = some ch → t.event.extractLsb' 0 8 = ch) ∧
      (e.shifted = none → t.event.extractLsb' 0 8 = e.unshifted)

/-- The KEY class with shift inactive (43_key_decoder.md R169): the unshifted character; with ctrl active and the
character in 97 to 125, inclusive, the character less 96; the ctrl bit is in the mask either way. -/
def Obligations.KeyWithShiftInactive : Prop :=
  ∀ (s : State) (e : KeyEntry), s.scan ≠ 0x00 → s.scan ∉ s.cfg.dedicated → s.cfg.lookup s.scan = some e →
    s.mods.shift = false →
    ∃ t, exec .decode s = .next t ∧ t.event.getLsbD 9 = s.mods.ctrl ∧
      (s.mods.ctrl = true ∧ 97 ≤ e.unshifted.toNat ∧ e.unshifted.toNat ≤ 125 →
        (t.event.extractLsb' 0 8).toNat = e.unshifted.toNat - 96) ∧
      (¬ (s.mods.ctrl = true ∧ 97 ≤ e.unshifted.toNat ∧ e.unshifted.toNat ≤ 125) →
        t.event.extractLsb' 0 8 = e.unshifted)

/-- A code absent from KEYTAB (43_key_decoder.md R170): character 0, the mask still returned, no flag changed. That DECODE
enters IDLE, from any phase, is the model's choice (log entries 15 and 16). -/
def Obligations.UnknownCodeReturnsTheMaskAlone : Prop :=
  ∀ s : State, s.scan ≠ 0x00 → s.scan ∉ s.cfg.dedicated → s.cfg.lookup s.scan = none →
    exec .decode s =
      .next { s with event := s.mods.mask.zeroExtend 16 <<< 8, phase := .idle }

/-- The KEY instructions complete in every state, with the result of the KEY class for their code (43_key_decoder.md
R165): the flags and the character the Key Table gives under them, KEY.q and KEY.s on the codes 0x17 and 0x27; and an
EVENT word is delivered as its fields side by side (30_encoding.md R75, R76). Only EVENT and PHASE are written. That KEY and
EVENT complete a command in any phase is the model's choice (log entries 15 and 16), and so is what KEY does on an ill-formed
term, a code that 43_key_decoder.md R165 shuts out of the class or that has a row of its own (log entry 26). -/
def Obligations.KeyInstructionsDeliverAnEventWord : Prop :=
  ∀ (s : State) (code : Byte) (f a c h : Bool) (k : Byte),
    exec (.event f a c h k) s = .next { s with event := encodeResult f a c h k, phase := .idle } ∧
    exec (.key code) s =
      .next { s with
        event := encodeResult s.mods.fn s.mods.alt s.mods.ctrl s.mods.shift (resolveChar s.mods (s.cfg.lookup code))
        phase := .idle } ∧
    exec .keyQ s =
      .next { s with
        event := encodeResult s.mods.fn s.mods.alt s.mods.ctrl s.mods.shift (resolveChar s.mods (s.cfg.lookup 0x17))
        phase := .idle } ∧
    exec .keyS s =
      .next { s with
        event := encodeResult s.mods.fn s.mods.alt s.mods.ctrl s.mods.shift (resolveChar s.mods (s.cfg.lookup 0x27))
        phase := .idle }

/-- The two keys whose rows the spec gives, under every configuration of 00_scope.md R9 (43_key_decoder.md R175): 'q' plain
is 0x0071, with shift 0x0151; 's' with ctrl and no shift is 0x0213; alt and fn off. The codes 0x71 of 'q' and 0x51 of 'Q'
are not the source's: they are ASCII (00_scope.md R11, G1), PRESUMED (log entry 21). That the key completes the command, from
any phase, is log entries 15 and 16. -/
def Obligations.KnownKeysResolve : Prop :=
  ∀ s : State, s.cfg.valid = true → s.mods.alt = false → s.mods.fn = false →
    (s.mods.shift = false → s.mods.ctrl = false →
      exec .keyQ s = .next { s with event := 0x0071, phase := .idle }) ∧
    (s.mods.shift = true → s.mods.ctrl = false →
      exec .keyQ s = .next { s with event := 0x0151, phase := .idle }) ∧
    (s.mods.shift = false → s.mods.ctrl = true →
      exec .keyS s = .next { s with event := 0x0213, phase := .idle })

/-! ### The machine as a whole -/

/-- State.reset satisfies the invariant. -/
def Obligations.ResetStateSatisfiesTheInvariant : Prop := MachineInv State.reset

/-- Every step keeps the invariant (10_state.md R21 to R32, 41_frame_assembler.md R130): RXBUF canonical, RXLEN at most
10 with every cell below it written, BITCNT at most 8, EVENT[15:12] zero, REQ asserted exactly in HS_ACK, and PHASE in
agreement with the counters. -/
def Obligations.StepKeepsTheInvariant : Prop :=
  ∀ s t : State, MachineInv s → step s = .next t → MachineInv t

/-- In a state of the invariant the only fault is RX_OVERFLOW, in PHASE FAULT: no cell of RXBUF is read before it is
written and no index outside 0 to 9 is used (10_state.md R37, 60_exceptions.md R197). That an
unwritten cell would fault, and that FAULT answers a fault, are log entries 7 and 11. -/
def Obligations.OnlyOverflowFaults : Prop :=
  ∀ (s : State) (f : Fault), MachineInv s → step s = .fault f → f = .rxOverflow ∧ s.phase = .fault

/-- The phase graph (43_key_decoder.md R172): where no RESET is due, a step follows an edge of the table, or stays in an
unbounded wait: in a hang the state is as it was, in BYTE_STOP only time has passed. In IDLE without a command to come the
state is as it was (70_reset_and_hazards.md R222). That a hang and an idle block answer the same state, the instant included,
is the model's choice (log entry 10), and that RXBYTE's return is a step of its own in BYTE_STOP is log entry 9. -/
def Obligations.PhaseGraphHasNoOtherEdge : Prop :=
  ∀ s t : State, resetDue s = none → step s = .next t →
    (graphEdge s.phase t.phase = true ∨ t = s ∨ (s.phase = .byteStop ∧ t = { s with now := t.now })) ∧
    (s.phase = .idle → s.env.commands = [] → t = s)

/-- The unbounded waits (60_exceptions.md R198): while the line never reaches the level waited for and no RESET is to
come, the step answers the same state, for ever; and so it does in IDLE while no command is to come, whatever the lines do
(70_reset_and_hazards.md R222, R233, 10_state.md R38). That form of a hang and of an idle block is the model's choice (log
entry 10). -/
def Obligations.UnboundedWaitsHang : Prop :=
  ∀ s : State, s.cfg.valid = true → s.env.resets = [] →
    ((s.phase = .attnPoll ∧ neverReads s.env.attn s.cfg.attnAssert s.now) ∨
     (s.phase = .hsAck ∧ neverReads s.env.attn (!s.cfg.attnAssert) s.now) ∨
     (s.phase = .firstStart ∧ neverReads s.env.data (!s.cfg.dataIdle) s.now) ∨
     (s.phase = .byteStop ∧ neverReads s.env.data s.cfg.dataIdle s.now) ∨
     (s.phase = .idle ∧ s.env.commands = [])) →
    ∀ n, runSteps n s = .next s

/-- EVENT is written at the completion of a command only (10_state.md R30): a step that is not a RESET and changes EVENT
ends in IDLE, with REQ as it was, and had PHASE FINISH or IDLE. -/
def Obligations.EventIsWrittenAtCompletionOnly : Prop :=
  ∀ s t : State, resetDue s = none → step s = .next t → t.event ≠ s.event →
    t.phase = .idle ∧ t.req = s.req ∧ (s.phase = .finish ∨ s.phase = .idle)

/-- At most one flag changes in a step that is not a RESET, and only in FINISH (43_key_decoder.md R173, 10_state.md
R28). -/
def Obligations.AtMostOneFlagChanges : Prop :=
  ∀ s t : State, resetDue s = none → step s = .next t →
    (s.phase ≠ .finish → t.mods = s.mods) ∧
    (t.mods = s.mods ∨ t.mods = { s.mods with shift := t.mods.shift } ∨ t.mods = { s.mods with ctrl := t.mods.ctrl } ∨
      t.mods = { s.mods with alt := t.mods.alt } ∨ t.mods = { s.mods with fn := t.mods.fn } ∨
      t.mods = { s.mods with caps := t.mods.caps })

/-- RXBUF is written by the store of RXFRAME only, at index RXLEN (10_state.md R21): in a step that is not a RESET every
other cell reads as before, and every cell does unless PHASE was BYTE_STOP. -/
def Obligations.BufferIsWrittenOnlyByTheStore : Prop :=
  ∀ s t : State, resetDue s = none → step s = .next t →
    ∀ a, (s.phase = .byteStop ∧ a = storeIndex s) ∨ t.rxbuf.read a = s.rxbuf.read a

/-- No step changes the configuration or the lines, and none runs time back (10_state.md R31, 20_memory.md R62,
70_reset_and_hazards.md R229, 00_scope.md R10). That the lines are data of State
which no step changes, where the spec lets them depend on REQ (60_exceptions.md R205, D31), is the model's choice (log entry
3), as is the configuration as a field (log entry 1). -/
def Obligations.ConfigurationAndLinesNeverChange : Prop :=
  ∀ s t : State, step s = .next t →
    t.cfg = s.cfg ∧ t.env.data = s.env.data ∧ t.env.attn = s.env.attn ∧ s.now ≤ t.now

/-- A burst that is short or does not begin 0x15, 0x35 completes the command with the null event and every flag as it was
(43_key_decoder.md R176 law e, 42_packet_validator.md R143, 60_exceptions.md R196). A cell matters only where the tests
before it hold (42_packet_validator.md R141): none in a short burst, the second only after a good first. -/
def Obligations.RejectedBurstIsANullEvent : Prop :=
  ∀ s : State, s.cfg.valid = true → resetDue s = none → s.phase = .finish →
    (s.rxlen.toNat < 3 ∨
     (∃ b, s.rxbuf.read 0 = some b ∧ b ≠ 0x15) ∨
     (s.rxbuf.read 0 = some 0x15 ∧ ∃ b, s.rxbuf.read 1 = some b ∧ b ≠ 0x35)) →
    step s = .next { s with scan := 0x00, event := 0x0000, phase := .idle }

/-- A burst of 3 to 10 bytes that begins 0x15, 0x35 completes the command with DECODE of its third byte; the bytes from
index 3 on are ignored (30_encoding.md R80, 43_key_decoder.md R151). -/
def Obligations.AcceptedBurstIsDecoded : Prop :=
  ∀ (s : State) (code : Byte), s.cfg.valid = true → resetDue s = none → s.phase = .finish → 3 ≤ s.rxlen.toNat →
    s.rxbuf.read 0 = some 0x15 → s.rxbuf.read 1 = some 0x35 → s.rxbuf.read 2 = some code →
    step s =
      .next { s with
        scan := code
        mods := (decodeFunction s.cfg s.mods code).1
        event := (decodeFunction s.cfg s.mods code).2
        phase := .idle }

/-- A configuration that breaks the constraints of 00_scope.md R9 is refused (93_implementation_defined.md U12). That `step`
is what refuses it is the model's choice (log entry 19); so is the constraint, among those checked, that the rows of KEYTAB
stand in strictly rising order of code (log entry 20), which is none of R9. -/
def Obligations.BadConfigurationIsRefused : Prop :=
  ∀ s : State, s.cfg.valid = false → step s = .refused .badConfiguration

/-- The whole of a blocking command (43_key_decoder.md R150 to R152; program P1 of 95_test_vectors.md for every
configuration, code and instants): a GETKEY.B issued at `t0`, attention asserted from `t1` until `t2`, whatever ATTN does
after that, the packet of a scan
code sent from `t3` on, runs to completion: IDLE again, REQ deasserted, the code in SCAN, the three bytes in RXBUF, MOD and
EVENT as DECODE makes them, at the instant the spec's figures give. That the commands to come are a queue which the issue
shortens is the model's choice (log entry 13). -/
def Obligations.BlockingCommandReturnsTheDecodedKey : Prop :=
  ∀ (s : State) (rest : List HostCommand) (code : Byte) (t0 t1 t2 t3 : Nat) (tail : Option Nat),
    s.cfg.valid = true → s.phase = .idle → s.env.resets = [] → s.env.commands = ⟨t0, 1⟩ :: rest →
    s.now ≤ t0 → t0 < t1 → t1 < t2 → t2 ≤ t3 →
    s.env.attn = ⟨!s.cfg.attnAssert, [(t1, s.cfg.attnAssert), (t2, !s.cfg.attnAssert)], tail⟩ →
    s.env.data = txWave s.cfg.dataIdle (packetBytes code) t3 →
    ∃ n t, runSteps n s = .next t ∧ t.phase = .idle ∧ t.req = (!s.cfg.reqAssert) ∧ t.scan = code ∧
      t.rxlen = 3 ∧ t.rxbuf.read 0 = some 0x15 ∧ t.rxbuf.read 1 = some 0x35 ∧ t.rxbuf.read 2 = some code ∧
      t.mods = (decodeFunction s.cfg s.mods code).1 ∧ t.event = (decodeFunction s.cfg s.mods code).2 ∧
      t.cmdBlocking = true ∧ t.env.commands = rest ∧
      t.now = t3 + 2 * 1041660 + (if code.getLsbD 0 = s.cfg.dataIdle then 885411 else 937494) + 2000000
end

