-- ==== Sys2Proof/Laws/Encoding.lean ====
section
/-! SUPPORT. The bit fields of a received byte and of a result word (30_encoding.md R72, R75, R76), read back. -/

namespace Sys2Proof.Machine

/-- The packing of EVENT is its fields side by side (30_encoding.md R76). -/
theorem packEvent_eq_encodeResult (f a c h : Bool) (k : Byte) :
    packEvent (maskBits f a c h) k = encodeResult f a c h k := by
  apply BitVec.eq_of_getLsbD_eq
  intro i hi
  simp only [packEvent, maskBits, encodeResult, BitVec.zeroExtend_eq_setWidth, BitVec.getLsbD_or,
    BitVec.getLsbD_shiftLeft, BitVec.getLsbD_append, BitVec.getLsbD_setWidth, BitVec.getLsbD_ofBool]
  interval_cases i <;> simp

/-- The bits of a byte, most significant first, make the byte (30_encoding.md R72). -/
theorem byteOfBits_getLsbD (b : Byte) :
    byteOfBits (b.getLsbD 7) (b.getLsbD 6) (b.getLsbD 5) (b.getLsbD 4) (b.getLsbD 3) (b.getLsbD 2) (b.getLsbD 1)
      (b.getLsbD 0) = b := by
  apply BitVec.eq_of_getLsbD_eq
  intro i hi
  simp only [byteOfBits, BitVec.getLsbD_append, BitVec.getLsbD_ofBool]
  interval_cases i <;> simp

/-- The character of a result word. -/
theorem encodeResult_char (f a c h : Bool) (k : Byte) : (encodeResult f a c h k).extractLsb' 0 8 = k := by
  apply BitVec.eq_of_getLsbD_eq
  intro i hi
  simp only [encodeResult, BitVec.getLsbD_extractLsb', BitVec.getLsbD_append, BitVec.getLsbD_ofBool]
  interval_cases i <;> simp

/-- The mask bits of a result word. -/
theorem encodeResult_mask (f a c h : Bool) (k : Byte) :
    (encodeResult f a c h k).getLsbD 8 = h ∧ (encodeResult f a c h k).getLsbD 9 = c ∧
    (encodeResult f a c h k).getLsbD 10 = a ∧ (encodeResult f a c h k).getLsbD 11 = f := by
  refine ⟨?_, ?_, ?_, ?_⟩ <;>
    simp only [encodeResult, BitVec.getLsbD_append, BitVec.getLsbD_ofBool] <;> simp

/-- Eight samples shifted in, the first to bit 7 (40_bit_sampler.md R103). -/
theorem shiftIn_eight (b1 b2 b3 b4 b5 b6 b7 b8 : Level) :
    shiftIn (shiftIn (shiftIn (shiftIn (shiftIn (shiftIn (shiftIn (shiftIn 0 b1) b2) b3) b4) b5) b6) b7) b8 =
      byteOfBits b1 b2 b3 b4 b5 b6 b7 b8 := by
  cases b1 <;> cases b2 <;> cases b3 <;> cases b4 <;> cases b5 <;> cases b6 <;> cases b7 <;> cases b8 <;> rfl

end Sys2Proof.Machine
end

