-- ==== Sys2Proof/Laws/Memory.lean ====
section
/-! SUPPORT. RXBUF as a memory (20_memory.md R54): a read after a write, and the canonical form, which every operation
keeps. -/

namespace Sys2Proof.Machine

theorem read_write_same (m : Memory) (a : Nat) (v : Byte) : (m.write a v).read a = some v := by
  induction m with
  | nil => simp [Memory.write, Memory.read]
  | cons x m ih =>
    obtain ⟨b, w⟩ := x
    simp only [Memory.write]
    split
    · simp [Memory.read]
    · split
      · simp [Memory.read]
      · have : b ≠ a := by omega
        simp [Memory.read, this, ih]

theorem read_write_other (m : Memory) (a b : Nat) (v : Byte) (h : b ≠ a) : (m.write a v).read b = m.read b := by
  induction m with
  | nil => simp [Memory.write, Memory.read, Ne.symm h]
  | cons x m ih =>
    obtain ⟨c, w⟩ := x
    simp only [Memory.write]
    split
    · simp [Memory.read, Ne.symm h]
    · split
      · subst_vars
        simp [Memory.read, Ne.symm h]
      · simp only [Memory.read, ih]

/-- What reading any cell gives after one write. -/
theorem read_write (m : Memory) (a b : Nat) (v : Byte) :
    (m.write a v).read b = if b = a then some v else m.read b := by
  split
  · subst_vars; exact read_write_same m _ v
  · exact read_write_other m a b v ‹_›

theorem mem_write (m : Memory) (a : Nat) (v : Byte) (x : Host.Cell) (h : x ∈ m.write a v) : x = (a, v) ∨ x ∈ m := by
  induction m with
  | nil => simpa [Memory.write] using h
  | cons y m ih =>
    obtain ⟨b, w⟩ := y
    simp only [Memory.write] at h
    split at h
    · simpa using h
    · split at h
      · simp only [List.mem_cons] at h ⊢
        tauto
      · simp only [List.mem_cons] at h ⊢
        rcases h with h | h
        · exact .inr (.inl h)
        · rcases ih h with h | h
          · exact .inl h
          · exact .inr (.inr h)

/-- A write to a cell that exists keeps the canonical form. -/
theorem write_wf (m : Memory) (a : Nat) (v : Byte) (h : m.wf) (ha : a < bufCap) : (m.write a v).wf := by
  refine ⟨?_, fun x hx => ?_⟩
  · have hp := h.1
    clear h ha
    induction m with
    | nil => simp [Memory.write]
    | cons y m ih =>
      obtain ⟨b, w⟩ := y
      rw [List.pairwise_cons] at hp
      simp only [Memory.write]
      split
      · rw [List.pairwise_cons, List.pairwise_cons]
        refine ⟨fun x hx => ?_, hp⟩
        rcases List.mem_cons.1 hx with rfl | hx
        · assumption
        · have := hp.1 x hx
          simp only at this
          omega
      · split
        · subst_vars
          rw [List.pairwise_cons]
          exact ⟨fun x hx => hp.1 x hx, hp.2⟩
        · rw [List.pairwise_cons]
          refine ⟨fun x hx => ?_, ih hp.2⟩
          rcases mem_write m a v x hx with rfl | hx
          · show b < a; omega
          · exact hp.1 x hx
  · rcases mem_write m a v x hx with rfl | hx
    · exact ha
    · exact h.2 x hx

/-- A canonical memory lists no cell above BUF_CAP. -/
theorem read_none_of_wf (m : Memory) (a : Nat) (h : m.wf) (ha : bufCap ≤ a) : m.read a = none := by
  have hall := h.2
  clear h
  induction m with
  | nil => rfl
  | cons x m ih =>
    obtain ⟨b, w⟩ := x
    have hb : b < bufCap := hall (b, w) (by simp)
    have : b ≠ a := by omega
    simp only [Memory.read, this, if_false]
    exact ih fun x hx => hall x (by simp [hx])

theorem reset_memory_wf : Memory.wf State.reset.rxbuf := by decide

/-- What a load answers. -/
theorem loadCell_ok {s : State} {i : Nat} {b : Byte} :
    loadCell s i = .ok b ↔ i < bufCap ∧ s.rxbuf.read i = some b := by
  unfold loadCell
  split
  · cases h : s.rxbuf.read i <;> simp_all
  · simp_all

/-- What a store answers, and all it changes. -/
theorem storeCell_ok {s t : State} {i : Nat} {v : Byte} :
    storeCell s i v = .ok t ↔ i < bufCap ∧ t = { s with rxbuf := s.rxbuf.write i v } := by
  unfold storeCell
  split
  · simp_all [eq_comm]
  · simp_all

/-- A store keeps the canonical form. -/
theorem storeCell_wf {s t : State} {i : Nat} {v : Byte} (h : storeCell s i v = .ok t) (hs : s.rxbuf.wf) :
    t.rxbuf.wf := by
  obtain ⟨hi, rfl⟩ := storeCell_ok.1 h
  exact write_wf s.rxbuf i v hs hi

end Sys2Proof.Machine
end

