-- ==== Sys2Proof/Laws/State.lean ====
section
/-! SUPPORT. What each update of the state leaves in each field: one lemma per field per update, true by rfl, so that no
proof unfolds a record update. -/

namespace Sys2Proof.Machine

/-! ### waitFor -/

@[simp] theorem waitFor_rxbuf (d : Nat) (s : State) : (waitFor d s).rxbuf = s.rxbuf := rfl
@[simp] theorem waitFor_rxlen (d : Nat) (s : State) : (waitFor d s).rxlen = s.rxlen := rfl
@[simp] theorem waitFor_shreg (d : Nat) (s : State) : (waitFor d s).shreg = s.shreg := rfl
@[simp] theorem waitFor_bitcnt (d : Nat) (s : State) : (waitFor d s).bitcnt = s.bitcnt := rfl
@[simp] theorem waitFor_timer (d : Nat) (s : State) : (waitFor d s).timer = BitVec.ofNat 21 d := rfl
@[simp] theorem waitFor_scan (d : Nat) (s : State) : (waitFor d s).scan = s.scan := rfl
@[simp] theorem waitFor_event (d : Nat) (s : State) : (waitFor d s).event = s.event := rfl
@[simp] theorem waitFor_cmdBlocking (d : Nat) (s : State) : (waitFor d s).cmdBlocking = s.cmdBlocking := rfl
@[simp] theorem waitFor_mods (d : Nat) (s : State) : (waitFor d s).mods = s.mods := rfl
@[simp] theorem waitFor_req (d : Nat) (s : State) : (waitFor d s).req = s.req := rfl
@[simp] theorem waitFor_phase (d : Nat) (s : State) : (waitFor d s).phase = s.phase := rfl
@[simp] theorem waitFor_now (d : Nat) (s : State) : (waitFor d s).now = s.now + d := rfl
@[simp] theorem waitFor_cfg (d : Nat) (s : State) : (waitFor d s).cfg = s.cfg := rfl
@[simp] theorem waitFor_env (d : Nat) (s : State) : (waitFor d s).env = s.env := rfl

/-! ### waitLevelOr -/

@[simp] theorem waitLevelOr_rxbuf (w : Wave) (v : Level) (d : Nat) (s : State) : (waitLevelOr w v d s).rxbuf = s.rxbuf := rfl
@[simp] theorem waitLevelOr_rxlen (w : Wave) (v : Level) (d : Nat) (s : State) : (waitLevelOr w v d s).rxlen = s.rxlen := rfl
@[simp] theorem waitLevelOr_shreg (w : Wave) (v : Level) (d : Nat) (s : State) : (waitLevelOr w v d s).shreg = s.shreg := rfl
@[simp] theorem waitLevelOr_bitcnt (w : Wave) (v : Level) (d : Nat) (s : State) : (waitLevelOr w v d s).bitcnt = s.bitcnt := rfl
@[simp] theorem waitLevelOr_timer (w : Wave) (v : Level) (d : Nat) (s : State) : (waitLevelOr w v d s).timer = BitVec.ofNat 21 (boundedDelay w v d s.now) := rfl
@[simp] theorem waitLevelOr_scan (w : Wave) (v : Level) (d : Nat) (s : State) : (waitLevelOr w v d s).scan = s.scan := rfl
@[simp] theorem waitLevelOr_event (w : Wave) (v : Level) (d : Nat) (s : State) : (waitLevelOr w v d s).event = s.event := rfl
@[simp] theorem waitLevelOr_cmdBlocking (w : Wave) (v : Level) (d : Nat) (s : State) : (waitLevelOr w v d s).cmdBlocking = s.cmdBlocking := rfl
@[simp] theorem waitLevelOr_mods (w : Wave) (v : Level) (d : Nat) (s : State) : (waitLevelOr w v d s).mods = s.mods := rfl
@[simp] theorem waitLevelOr_req (w : Wave) (v : Level) (d : Nat) (s : State) : (waitLevelOr w v d s).req = s.req := rfl
@[simp] theorem waitLevelOr_phase (w : Wave) (v : Level) (d : Nat) (s : State) : (waitLevelOr w v d s).phase = s.phase := rfl
@[simp] theorem waitLevelOr_now (w : Wave) (v : Level) (d : Nat) (s : State) : (waitLevelOr w v d s).now = s.now + boundedDelay w v d s.now := rfl
@[simp] theorem waitLevelOr_cfg (w : Wave) (v : Level) (d : Nat) (s : State) : (waitLevelOr w v d s).cfg = s.cfg := rfl
@[simp] theorem waitLevelOr_env (w : Wave) (v : Level) (d : Nat) (s : State) : (waitLevelOr w v d s).env = s.env := rfl

/-! ### acknowledge -/

@[simp] theorem acknowledge_rxbuf (s : State) : (acknowledge s).rxbuf = s.rxbuf := rfl
@[simp] theorem acknowledge_rxlen (s : State) : (acknowledge s).rxlen = s.rxlen := rfl
@[simp] theorem acknowledge_shreg (s : State) : (acknowledge s).shreg = s.shreg := rfl
@[simp] theorem acknowledge_bitcnt (s : State) : (acknowledge s).bitcnt = s.bitcnt := rfl
@[simp] theorem acknowledge_timer (s : State) : (acknowledge s).timer = s.timer := rfl
@[simp] theorem acknowledge_scan (s : State) : (acknowledge s).scan = s.scan := rfl
@[simp] theorem acknowledge_event (s : State) : (acknowledge s).event = s.event := rfl
@[simp] theorem acknowledge_cmdBlocking (s : State) : (acknowledge s).cmdBlocking = s.cmdBlocking := rfl
@[simp] theorem acknowledge_mods (s : State) : (acknowledge s).mods = s.mods := rfl
@[simp] theorem acknowledge_req (s : State) : (acknowledge s).req = s.cfg.reqAssert := rfl
@[simp] theorem acknowledge_phase (s : State) : (acknowledge s).phase = .hsAck := rfl
@[simp] theorem acknowledge_now (s : State) : (acknowledge s).now = s.now := rfl
@[simp] theorem acknowledge_cfg (s : State) : (acknowledge s).cfg = s.cfg := rfl
@[simp] theorem acknowledge_env (s : State) : (acknowledge s).env = s.env := rfl

/-! ### releaseReq -/

@[simp] theorem releaseReq_rxbuf (s : State) : (releaseReq s).rxbuf = s.rxbuf := rfl
@[simp] theorem releaseReq_rxlen (s : State) : (releaseReq s).rxlen = s.rxlen := rfl
@[simp] theorem releaseReq_shreg (s : State) : (releaseReq s).shreg = s.shreg := rfl
@[simp] theorem releaseReq_bitcnt (s : State) : (releaseReq s).bitcnt = s.bitcnt := rfl
@[simp] theorem releaseReq_timer (s : State) : (releaseReq s).timer = s.timer := rfl
@[simp] theorem releaseReq_scan (s : State) : (releaseReq s).scan = s.scan := rfl
@[simp] theorem releaseReq_event (s : State) : (releaseReq s).event = s.event := rfl
@[simp] theorem releaseReq_cmdBlocking (s : State) : (releaseReq s).cmdBlocking = s.cmdBlocking := rfl
@[simp] theorem releaseReq_mods (s : State) : (releaseReq s).mods = s.mods := rfl
@[simp] theorem releaseReq_req (s : State) : (releaseReq s).req = (!s.cfg.reqAssert) := rfl
@[simp] theorem releaseReq_phase (s : State) : (releaseReq s).phase = .firstStart := rfl
@[simp] theorem releaseReq_now (s : State) : (releaseReq s).now = s.now := rfl
@[simp] theorem releaseReq_cfg (s : State) : (releaseReq s).cfg = s.cfg := rfl
@[simp] theorem releaseReq_env (s : State) : (releaseReq s).env = s.env := rfl

/-! ### beginByte -/

@[simp] theorem beginByte_rxbuf (s : State) : (beginByte s).rxbuf = s.rxbuf := rfl
@[simp] theorem beginByte_rxlen (s : State) : (beginByte s).rxlen = s.rxlen := rfl
@[simp] theorem beginByte_shreg (s : State) : (beginByte s).shreg = s.shreg := rfl
@[simp] theorem beginByte_bitcnt (s : State) : (beginByte s).bitcnt = s.bitcnt := rfl
@[simp] theorem beginByte_timer (s : State) : (beginByte s).timer = s.timer := rfl
@[simp] theorem beginByte_scan (s : State) : (beginByte s).scan = s.scan := rfl
@[simp] theorem beginByte_event (s : State) : (beginByte s).event = s.event := rfl
@[simp] theorem beginByte_cmdBlocking (s : State) : (beginByte s).cmdBlocking = s.cmdBlocking := rfl
@[simp] theorem beginByte_mods (s : State) : (beginByte s).mods = s.mods := rfl
@[simp] theorem beginByte_req (s : State) : (beginByte s).req = s.req := rfl
@[simp] theorem beginByte_phase (s : State) : (beginByte s).phase = .byteHalf := rfl
@[simp] theorem beginByte_now (s : State) : (beginByte s).now = s.now := rfl
@[simp] theorem beginByte_cfg (s : State) : (beginByte s).cfg = s.cfg := rfl
@[simp] theorem beginByte_env (s : State) : (beginByte s).env = s.env := rfl

/-! ### endBurst -/

@[simp] theorem endBurst_rxbuf (s : State) : (endBurst s).rxbuf = s.rxbuf := rfl
@[simp] theorem endBurst_rxlen (s : State) : (endBurst s).rxlen = s.rxlen := rfl
@[simp] theorem endBurst_shreg (s : State) : (endBurst s).shreg = s.shreg := rfl
@[simp] theorem endBurst_bitcnt (s : State) : (endBurst s).bitcnt = s.bitcnt := rfl
@[simp] theorem endBurst_timer (s : State) : (endBurst s).timer = s.timer := rfl
@[simp] theorem endBurst_scan (s : State) : (endBurst s).scan = s.scan := rfl
@[simp] theorem endBurst_event (s : State) : (endBurst s).event = s.event := rfl
@[simp] theorem endBurst_cmdBlocking (s : State) : (endBurst s).cmdBlocking = s.cmdBlocking := rfl
@[simp] theorem endBurst_mods (s : State) : (endBurst s).mods = s.mods := rfl
@[simp] theorem endBurst_req (s : State) : (endBurst s).req = s.req := rfl
@[simp] theorem endBurst_phase (s : State) : (endBurst s).phase = .finish := rfl
@[simp] theorem endBurst_now (s : State) : (endBurst s).now = s.now := rfl
@[simp] theorem endBurst_cfg (s : State) : (endBurst s).cfg = s.cfg := rfl
@[simp] theorem endBurst_env (s : State) : (endBurst s).env = s.env := rfl

/-! ### complete -/

@[simp] theorem complete_rxbuf (w : Word16) (s : State) : (complete w s).rxbuf = s.rxbuf := rfl
@[simp] theorem complete_rxlen (w : Word16) (s : State) : (complete w s).rxlen = s.rxlen := rfl
@[simp] theorem complete_shreg (w : Word16) (s : State) : (complete w s).shreg = s.shreg := rfl
@[simp] theorem complete_bitcnt (w : Word16) (s : State) : (complete w s).bitcnt = s.bitcnt := rfl
@[simp] theorem complete_timer (w : Word16) (s : State) : (complete w s).timer = s.timer := rfl
@[simp] theorem complete_scan (w : Word16) (s : State) : (complete w s).scan = s.scan := rfl
@[simp] theorem complete_event (w : Word16) (s : State) : (complete w s).event = w := rfl
@[simp] theorem complete_cmdBlocking (w : Word16) (s : State) : (complete w s).cmdBlocking = s.cmdBlocking := rfl
@[simp] theorem complete_mods (w : Word16) (s : State) : (complete w s).mods = s.mods := rfl
@[simp] theorem complete_req (w : Word16) (s : State) : (complete w s).req = s.req := rfl
@[simp] theorem complete_phase (w : Word16) (s : State) : (complete w s).phase = .idle := rfl
@[simp] theorem complete_now (w : Word16) (s : State) : (complete w s).now = s.now := rfl
@[simp] theorem complete_cfg (w : Word16) (s : State) : (complete w s).cfg = s.cfg := rfl
@[simp] theorem complete_env (w : Word16) (s : State) : (complete w s).env = s.env := rfl

/-! ### takeOverflow -/

@[simp] theorem takeOverflow_rxbuf (s : State) : (takeOverflow s).rxbuf = s.rxbuf := rfl
@[simp] theorem takeOverflow_rxlen (s : State) : (takeOverflow s).rxlen = s.rxlen := rfl
@[simp] theorem takeOverflow_shreg (s : State) : (takeOverflow s).shreg = s.shreg := rfl
@[simp] theorem takeOverflow_bitcnt (s : State) : (takeOverflow s).bitcnt = s.bitcnt := rfl
@[simp] theorem takeOverflow_timer (s : State) : (takeOverflow s).timer = s.timer := rfl
@[simp] theorem takeOverflow_scan (s : State) : (takeOverflow s).scan = s.scan := rfl
@[simp] theorem takeOverflow_event (s : State) : (takeOverflow s).event = s.event := rfl
@[simp] theorem takeOverflow_cmdBlocking (s : State) : (takeOverflow s).cmdBlocking = s.cmdBlocking := rfl
@[simp] theorem takeOverflow_mods (s : State) : (takeOverflow s).mods = s.mods := rfl
@[simp] theorem takeOverflow_req (s : State) : (takeOverflow s).req = s.req := rfl
@[simp] theorem takeOverflow_phase (s : State) : (takeOverflow s).phase = .fault := rfl
@[simp] theorem takeOverflow_now (s : State) : (takeOverflow s).now = s.now := rfl
@[simp] theorem takeOverflow_cfg (s : State) : (takeOverflow s).cfg = s.cfg := rfl
@[simp] theorem takeOverflow_env (s : State) : (takeOverflow s).env = s.env := rfl

/-! ### setMods -/

@[simp] theorem setMods_rxbuf (f : Mods → Mods) (s : State) : (setMods f s).rxbuf = s.rxbuf := rfl
@[simp] theorem setMods_rxlen (f : Mods → Mods) (s : State) : (setMods f s).rxlen = s.rxlen := rfl
@[simp] theorem setMods_shreg (f : Mods → Mods) (s : State) : (setMods f s).shreg = s.shreg := rfl
@[simp] theorem setMods_bitcnt (f : Mods → Mods) (s : State) : (setMods f s).bitcnt = s.bitcnt := rfl
@[simp] theorem setMods_timer (f : Mods → Mods) (s : State) : (setMods f s).timer = s.timer := rfl
@[simp] theorem setMods_scan (f : Mods → Mods) (s : State) : (setMods f s).scan = s.scan := rfl
@[simp] theorem setMods_event (f : Mods → Mods) (s : State) : (setMods f s).event = s.event := rfl
@[simp] theorem setMods_cmdBlocking (f : Mods → Mods) (s : State) : (setMods f s).cmdBlocking = s.cmdBlocking := rfl
@[simp] theorem setMods_mods (f : Mods → Mods) (s : State) : (setMods f s).mods = f s.mods := rfl
@[simp] theorem setMods_req (f : Mods → Mods) (s : State) : (setMods f s).req = s.req := rfl
@[simp] theorem setMods_phase (f : Mods → Mods) (s : State) : (setMods f s).phase = s.phase := rfl
@[simp] theorem setMods_now (f : Mods → Mods) (s : State) : (setMods f s).now = s.now := rfl
@[simp] theorem setMods_cfg (f : Mods → Mods) (s : State) : (setMods f s).cfg = s.cfg := rfl
@[simp] theorem setMods_env (f : Mods → Mods) (s : State) : (setMods f s).env = s.env := rfl

/-! ### modifierEvent -/

@[simp] theorem modifierEvent_rxbuf (f : Mods → Mods) (s : State) : (modifierEvent f s).rxbuf = s.rxbuf := rfl
@[simp] theorem modifierEvent_rxlen (f : Mods → Mods) (s : State) : (modifierEvent f s).rxlen = s.rxlen := rfl
@[simp] theorem modifierEvent_shreg (f : Mods → Mods) (s : State) : (modifierEvent f s).shreg = s.shreg := rfl
@[simp] theorem modifierEvent_bitcnt (f : Mods → Mods) (s : State) : (modifierEvent f s).bitcnt = s.bitcnt := rfl
@[simp] theorem modifierEvent_timer (f : Mods → Mods) (s : State) : (modifierEvent f s).timer = s.timer := rfl
@[simp] theorem modifierEvent_scan (f : Mods → Mods) (s : State) : (modifierEvent f s).scan = s.scan := rfl
@[simp] theorem modifierEvent_event (f : Mods → Mods) (s : State) : (modifierEvent f s).event = 0x0000 := rfl
@[simp] theorem modifierEvent_cmdBlocking (f : Mods → Mods) (s : State) : (modifierEvent f s).cmdBlocking = s.cmdBlocking := rfl
@[simp] theorem modifierEvent_mods (f : Mods → Mods) (s : State) : (modifierEvent f s).mods = f s.mods := rfl
@[simp] theorem modifierEvent_req (f : Mods → Mods) (s : State) : (modifierEvent f s).req = s.req := rfl
@[simp] theorem modifierEvent_phase (f : Mods → Mods) (s : State) : (modifierEvent f s).phase = .idle := rfl
@[simp] theorem modifierEvent_now (f : Mods → Mods) (s : State) : (modifierEvent f s).now = s.now := rfl
@[simp] theorem modifierEvent_cfg (f : Mods → Mods) (s : State) : (modifierEvent f s).cfg = s.cfg := rfl
@[simp] theorem modifierEvent_env (f : Mods → Mods) (s : State) : (modifierEvent f s).env = s.env := rfl

/-! ### keyEvent -/

@[simp] theorem keyEvent_rxbuf (code : Byte) (s : State) : (keyEvent code s).rxbuf = s.rxbuf := rfl
@[simp] theorem keyEvent_rxlen (code : Byte) (s : State) : (keyEvent code s).rxlen = s.rxlen := rfl
@[simp] theorem keyEvent_shreg (code : Byte) (s : State) : (keyEvent code s).shreg = s.shreg := rfl
@[simp] theorem keyEvent_bitcnt (code : Byte) (s : State) : (keyEvent code s).bitcnt = s.bitcnt := rfl
@[simp] theorem keyEvent_timer (code : Byte) (s : State) : (keyEvent code s).timer = s.timer := rfl
@[simp] theorem keyEvent_scan (code : Byte) (s : State) : (keyEvent code s).scan = s.scan := rfl
@[simp] theorem keyEvent_event (code : Byte) (s : State) : (keyEvent code s).event = keyResult s.cfg s.mods code := rfl
@[simp] theorem keyEvent_cmdBlocking (code : Byte) (s : State) : (keyEvent code s).cmdBlocking = s.cmdBlocking := rfl
@[simp] theorem keyEvent_mods (code : Byte) (s : State) : (keyEvent code s).mods = s.mods := rfl
@[simp] theorem keyEvent_req (code : Byte) (s : State) : (keyEvent code s).req = s.req := rfl
@[simp] theorem keyEvent_phase (code : Byte) (s : State) : (keyEvent code s).phase = .idle := rfl
@[simp] theorem keyEvent_now (code : Byte) (s : State) : (keyEvent code s).now = s.now := rfl
@[simp] theorem keyEvent_cfg (code : Byte) (s : State) : (keyEvent code s).cfg = s.cfg := rfl
@[simp] theorem keyEvent_env (code : Byte) (s : State) : (keyEvent code s).env = s.env := rfl

/-! ### startSampling -/

@[simp] theorem startSampling_rxbuf (s : State) : (startSampling s).rxbuf = s.rxbuf := rfl
@[simp] theorem startSampling_rxlen (s : State) : (startSampling s).rxlen = s.rxlen := rfl
@[simp] theorem startSampling_shreg (s : State) : (startSampling s).shreg = 0x00 := rfl
@[simp] theorem startSampling_bitcnt (s : State) : (startSampling s).bitcnt = 0 := rfl
@[simp] theorem startSampling_timer (s : State) : (startSampling s).timer = BitVec.ofNat 21 tHalf := rfl
@[simp] theorem startSampling_scan (s : State) : (startSampling s).scan = s.scan := rfl
@[simp] theorem startSampling_event (s : State) : (startSampling s).event = s.event := rfl
@[simp] theorem startSampling_cmdBlocking (s : State) : (startSampling s).cmdBlocking = s.cmdBlocking := rfl
@[simp] theorem startSampling_mods (s : State) : (startSampling s).mods = s.mods := rfl
@[simp] theorem startSampling_req (s : State) : (startSampling s).req = s.req := rfl
@[simp] theorem startSampling_phase (s : State) : (startSampling s).phase = .byteBits := rfl
@[simp] theorem startSampling_now (s : State) : (startSampling s).now = s.now + tHalf := rfl
@[simp] theorem startSampling_cfg (s : State) : (startSampling s).cfg = s.cfg := rfl
@[simp] theorem startSampling_env (s : State) : (startSampling s).env = s.env := rfl

/-! ### takeSample -/

@[simp] theorem takeSample_rxbuf (s : State) : (takeSample s).rxbuf = s.rxbuf := rfl
@[simp] theorem takeSample_rxlen (s : State) : (takeSample s).rxlen = s.rxlen := rfl
@[simp] theorem takeSample_shreg (s : State) : (takeSample s).shreg = shiftIn s.shreg (s.env.data.level (s.now + tBit)) := rfl
@[simp] theorem takeSample_bitcnt (s : State) : (takeSample s).bitcnt = s.bitcnt + 1 := rfl
@[simp] theorem takeSample_timer (s : State) : (takeSample s).timer = BitVec.ofNat 21 tBit := rfl
@[simp] theorem takeSample_scan (s : State) : (takeSample s).scan = s.scan := rfl
@[simp] theorem takeSample_event (s : State) : (takeSample s).event = s.event := rfl
@[simp] theorem takeSample_cmdBlocking (s : State) : (takeSample s).cmdBlocking = s.cmdBlocking := rfl
@[simp] theorem takeSample_mods (s : State) : (takeSample s).mods = s.mods := rfl
@[simp] theorem takeSample_req (s : State) : (takeSample s).req = s.req := rfl
@[simp] theorem takeSample_phase (s : State) : (takeSample s).phase = if (s.bitcnt + 1).toNat < nBits then .byteBits else .byteStop := rfl
@[simp] theorem takeSample_now (s : State) : (takeSample s).now = s.now + tBit := rfl
@[simp] theorem takeSample_cfg (s : State) : (takeSample s).cfg = s.cfg := rfl
@[simp] theorem takeSample_env (s : State) : (takeSample s).env = s.env := rfl

/-! ### receivedChar -/

@[simp] theorem receivedChar_rxbuf (bits : Byte) (s : State) : (receivedChar bits s).rxbuf = s.rxbuf := rfl
@[simp] theorem receivedChar_rxlen (bits : Byte) (s : State) : (receivedChar bits s).rxlen = s.rxlen := rfl
@[simp] theorem receivedChar_shreg (bits : Byte) (s : State) : (receivedChar bits s).shreg = bits := rfl
@[simp] theorem receivedChar_bitcnt (bits : Byte) (s : State) : (receivedChar bits s).bitcnt = 8 := rfl
@[simp] theorem receivedChar_timer (bits : Byte) (s : State) : (receivedChar bits s).timer = BitVec.ofNat 21 tBit := rfl
@[simp] theorem receivedChar_scan (bits : Byte) (s : State) : (receivedChar bits s).scan = s.scan := rfl
@[simp] theorem receivedChar_event (bits : Byte) (s : State) : (receivedChar bits s).event = s.event := rfl
@[simp] theorem receivedChar_cmdBlocking (bits : Byte) (s : State) : (receivedChar bits s).cmdBlocking = s.cmdBlocking := rfl
@[simp] theorem receivedChar_mods (bits : Byte) (s : State) : (receivedChar bits s).mods = s.mods := rfl
@[simp] theorem receivedChar_req (bits : Byte) (s : State) : (receivedChar bits s).req = s.req := rfl
@[simp] theorem receivedChar_phase (bits : Byte) (s : State) : (receivedChar bits s).phase = .byteStop := rfl
@[simp] theorem receivedChar_now (bits : Byte) (s : State) : (receivedChar bits s).now = s.now + (tHalf + nBits * tBit) := rfl
@[simp] theorem receivedChar_cfg (bits : Byte) (s : State) : (receivedChar bits s).cfg = s.cfg := rfl
@[simp] theorem receivedChar_env (bits : Byte) (s : State) : (receivedChar bits s).env = s.env := rfl

/-! ### acceptCommand -/

@[simp] theorem acceptCommand_rxbuf (h : HostCommand) (s : State) : (acceptCommand h s).rxbuf = s.rxbuf := rfl
@[simp] theorem acceptCommand_rxlen (h : HostCommand) (s : State) : (acceptCommand h s).rxlen = s.rxlen := rfl
@[simp] theorem acceptCommand_shreg (h : HostCommand) (s : State) : (acceptCommand h s).shreg = s.shreg := rfl
@[simp] theorem acceptCommand_bitcnt (h : HostCommand) (s : State) : (acceptCommand h s).bitcnt = s.bitcnt := rfl
@[simp] theorem acceptCommand_timer (h : HostCommand) (s : State) : (acceptCommand h s).timer = s.timer := rfl
@[simp] theorem acceptCommand_scan (h : HostCommand) (s : State) : (acceptCommand h s).scan = s.scan := rfl
@[simp] theorem acceptCommand_event (h : HostCommand) (s : State) : (acceptCommand h s).event = s.event := rfl
@[simp] theorem acceptCommand_cmdBlocking (h : HostCommand) (s : State) : (acceptCommand h s).cmdBlocking = s.cmdBlocking := rfl
@[simp] theorem acceptCommand_mods (h : HostCommand) (s : State) : (acceptCommand h s).mods = s.mods := rfl
@[simp] theorem acceptCommand_req (h : HostCommand) (s : State) : (acceptCommand h s).req = s.req := rfl
@[simp] theorem acceptCommand_phase (h : HostCommand) (s : State) : (acceptCommand h s).phase = s.phase := rfl
@[simp] theorem acceptCommand_now (h : HostCommand) (s : State) : (acceptCommand h s).now = h.issue := rfl
@[simp] theorem acceptCommand_cfg (h : HostCommand) (s : State) : (acceptCommand h s).cfg = s.cfg := rfl
@[simp] theorem acceptCommand_env (h : HostCommand) (s : State) : (acceptCommand h s).env = { s.env with commands := s.env.commands.tail } := rfl

/-! ### afterReset -/

@[simp] theorem afterReset_rxbuf (c : Config) (e : Env) (t : Nat) : (State.afterReset c e t).rxbuf = [] := rfl
@[simp] theorem afterReset_rxlen (c : Config) (e : Env) (t : Nat) : (State.afterReset c e t).rxlen = 0 := rfl
@[simp] theorem afterReset_shreg (c : Config) (e : Env) (t : Nat) : (State.afterReset c e t).shreg = 0 := rfl
@[simp] theorem afterReset_bitcnt (c : Config) (e : Env) (t : Nat) : (State.afterReset c e t).bitcnt = 0 := rfl
@[simp] theorem afterReset_timer (c : Config) (e : Env) (t : Nat) : (State.afterReset c e t).timer = 0 := rfl
@[simp] theorem afterReset_scan (c : Config) (e : Env) (t : Nat) : (State.afterReset c e t).scan = 0 := rfl
@[simp] theorem afterReset_event (c : Config) (e : Env) (t : Nat) : (State.afterReset c e t).event = 0 := rfl
@[simp] theorem afterReset_cmdBlocking (c : Config) (e : Env) (t : Nat) : (State.afterReset c e t).cmdBlocking = false := rfl
@[simp] theorem afterReset_mods (c : Config) (e : Env) (t : Nat) : (State.afterReset c e t).mods = Mods.none := rfl
@[simp] theorem afterReset_req (c : Config) (e : Env) (t : Nat) : (State.afterReset c e t).req = (!c.reqAssert) := rfl
@[simp] theorem afterReset_phase (c : Config) (e : Env) (t : Nat) : (State.afterReset c e t).phase = .idle := rfl
@[simp] theorem afterReset_now (c : Config) (e : Env) (t : Nat) : (State.afterReset c e t).now = t := rfl
@[simp] theorem afterReset_cfg (c : Config) (e : Env) (t : Nat) : (State.afterReset c e t).cfg = c := rfl
@[simp] theorem afterReset_env (c : Config) (e : Env) (t : Nat) : (State.afterReset c e t).env = e := rfl

/-! ### applyReset -/

@[simp] theorem applyReset_rxbuf (t : Nat) (s : State) : (applyReset t s).rxbuf = [] := rfl
@[simp] theorem applyReset_rxlen (t : Nat) (s : State) : (applyReset t s).rxlen = 0 := rfl
@[simp] theorem applyReset_shreg (t : Nat) (s : State) : (applyReset t s).shreg = 0 := rfl
@[simp] theorem applyReset_bitcnt (t : Nat) (s : State) : (applyReset t s).bitcnt = 0 := rfl
@[simp] theorem applyReset_timer (t : Nat) (s : State) : (applyReset t s).timer = 0 := rfl
@[simp] theorem applyReset_scan (t : Nat) (s : State) : (applyReset t s).scan = 0 := rfl
@[simp] theorem applyReset_event (t : Nat) (s : State) : (applyReset t s).event = 0 := rfl
@[simp] theorem applyReset_cmdBlocking (t : Nat) (s : State) : (applyReset t s).cmdBlocking = false := rfl
@[simp] theorem applyReset_mods (t : Nat) (s : State) : (applyReset t s).mods = Mods.none := rfl
@[simp] theorem applyReset_req (t : Nat) (s : State) : (applyReset t s).req = (!s.cfg.reqAssert) := rfl
@[simp] theorem applyReset_phase (t : Nat) (s : State) : (applyReset t s).phase = .idle := rfl
@[simp] theorem applyReset_now (t : Nat) (s : State) : (applyReset t s).now = t := rfl
@[simp] theorem applyReset_cfg (t : Nat) (s : State) : (applyReset t s).cfg = s.cfg := rfl
@[simp] theorem applyReset_env (t : Nat) (s : State) : (applyReset t s).env = { s.env with resets := s.env.resets.tail } := rfl

/-! ### The flag updates -/

@[simp] theorem setShift_shift (b : Bool) (m : Mods) : (Mods.setShift b m).shift = b := rfl
@[simp] theorem setShift_ctrl (b : Bool) (m : Mods) : (Mods.setShift b m).ctrl = m.ctrl := rfl
@[simp] theorem setShift_alt (b : Bool) (m : Mods) : (Mods.setShift b m).alt = m.alt := rfl
@[simp] theorem setShift_fn (b : Bool) (m : Mods) : (Mods.setShift b m).fn = m.fn := rfl
@[simp] theorem setShift_caps (b : Bool) (m : Mods) : (Mods.setShift b m).caps = m.caps := rfl
@[simp] theorem setCtrl_shift (b : Bool) (m : Mods) : (Mods.setCtrl b m).shift = m.shift := rfl
@[simp] theorem setCtrl_ctrl (b : Bool) (m : Mods) : (Mods.setCtrl b m).ctrl = b := rfl
@[simp] theorem setCtrl_alt (b : Bool) (m : Mods) : (Mods.setCtrl b m).alt = m.alt := rfl
@[simp] theorem setCtrl_fn (b : Bool) (m : Mods) : (Mods.setCtrl b m).fn = m.fn := rfl
@[simp] theorem setCtrl_caps (b : Bool) (m : Mods) : (Mods.setCtrl b m).caps = m.caps := rfl
@[simp] theorem setAlt_shift (b : Bool) (m : Mods) : (Mods.setAlt b m).shift = m.shift := rfl
@[simp] theorem setAlt_ctrl (b : Bool) (m : Mods) : (Mods.setAlt b m).ctrl = m.ctrl := rfl
@[simp] theorem setAlt_alt (b : Bool) (m : Mods) : (Mods.setAlt b m).alt = b := rfl
@[simp] theorem setAlt_fn (b : Bool) (m : Mods) : (Mods.setAlt b m).fn = m.fn := rfl
@[simp] theorem setAlt_caps (b : Bool) (m : Mods) : (Mods.setAlt b m).caps = m.caps := rfl
@[simp] theorem setFn_shift (b : Bool) (m : Mods) : (Mods.setFn b m).shift = m.shift := rfl
@[simp] theorem setFn_ctrl (b : Bool) (m : Mods) : (Mods.setFn b m).ctrl = m.ctrl := rfl
@[simp] theorem setFn_alt (b : Bool) (m : Mods) : (Mods.setFn b m).alt = m.alt := rfl
@[simp] theorem setFn_fn (b : Bool) (m : Mods) : (Mods.setFn b m).fn = b := rfl
@[simp] theorem setFn_caps (b : Bool) (m : Mods) : (Mods.setFn b m).caps = m.caps := rfl
@[simp] theorem toggleCaps_shift (m : Mods) : (Mods.toggleCaps m).shift = m.shift := rfl
@[simp] theorem toggleCaps_ctrl (m : Mods) : (Mods.toggleCaps m).ctrl = m.ctrl := rfl
@[simp] theorem toggleCaps_alt (m : Mods) : (Mods.toggleCaps m).alt = m.alt := rfl
@[simp] theorem toggleCaps_fn (m : Mods) : (Mods.toggleCaps m).fn = m.fn := rfl
@[simp] theorem toggleCaps_caps (m : Mods) : (Mods.toggleCaps m).caps = (!m.caps) := rfl
@[simp] theorem modsNone_shift : Mods.none.shift = false := rfl
@[simp] theorem modsNone_ctrl : Mods.none.ctrl = false := rfl
@[simp] theorem modsNone_alt : Mods.none.alt = false := rfl
@[simp] theorem modsNone_fn : Mods.none.fn = false := rfl
@[simp] theorem modsNone_caps : Mods.none.caps = false := rfl

end Sys2Proof.Machine
end

