-- ==== Sys2Proof/Laws/Wave.lean ====
section
/-! SUPPORT. The pins over time (00_scope.md R12): `Wave.first` is the least instant at which a line reads a level, and
`none` exactly when there is none; and every function of time is the free tail of some line. -/

namespace Sys2Proof.Machine

/-- The two levels are each other's negation. -/
theorem level_ne_iff {a b : Level} : a ≠ b ↔ a = !b := by
  cases a <;> cases b <;> decide

/-- Everything a walk says: where it finds the line at `t`, the line stays until the next change it names, inverts there,
and stays for ever if it names none. -/
theorem tailWalk_spec {gaps : Nat → Option Nat} {fuel n since : Nat} {cur : Level} {t : Nat} (h1 : since ≤ t)
    (h2 : t < since + fuel) {fuel' x : Nat} (hx : t ≤ x) (h3 : x < since + fuel') :
    ((tailWalk gaps fuel n since cur t).2 = none →
      (tailWalk gaps fuel' n since cur x).1 = (tailWalk gaps fuel n since cur t).1) ∧
    ∀ u, (tailWalk gaps fuel n since cur t).2 = some u → t < u ∧
      (x < u → (tailWalk gaps fuel' n since cur x).1 = (tailWalk gaps fuel n since cur t).1) ∧
      (x = u → (tailWalk gaps fuel' n since cur x).1 = !(tailWalk gaps fuel n since cur t).1) := by
  induction fuel generalizing n since cur fuel' with
  | zero => omega
  | succ fuel ih =>
    obtain _ | fuel' := fuel'
    · omega
    cases hg : gaps n with
    | none => simp [tailWalk, hg]
    | some g =>
      by_cases ht : since + g + 1 ≤ t
      · simpa [tailWalk, hg, ht, le_trans ht hx] using
          ih (n := n + 1) (since := since + g + 1) (cur := !cur) ht (by omega) (fuel' := fuel') (by omega)
      · refine ⟨by simp [tailWalk, hg, ht], fun u hu => ?_⟩
        obtain rfl : since + g + 1 = u := by simpa [tailWalk, hg, ht] using hu
        refine ⟨by omega, fun h => ?_, ?_⟩
        · simp [tailWalk, hg, ht, show ¬ since + g + 1 ≤ x by omega]
        · rintro rfl
          obtain _ | fuel' := fuel'
          · omega
          cases hg' : gaps (n + 1) with
          | none => simp [tailWalk, hg, ht, hg']
          | some g' => simp [tailWalk, hg, ht, hg', show ¬ since + g + 1 + g' ≤ since + g by omega]

/-- `tailWalk_spec` for the tail of a line. -/
theorem tailAt_spec {tail : Option Nat} {since : Nat} {cur : Level} {t x : Nat} (h1 : since ≤ t) (hx : t ≤ x) :
    ((tailAt tail since cur t).2 = none → (tailAt tail since cur x).1 = (tailAt tail since cur t).1) ∧
    ∀ u, (tailAt tail since cur t).2 = some u → t < u ∧
      (x < u → (tailAt tail since cur x).1 = (tailAt tail since cur t).1) ∧
      (x = u → (tailAt tail since cur x).1 = !(tailAt tail since cur t).1) := by
  cases tail with
  | none => simp [tailAt]
  | some k => exact tailWalk_spec h1 (by omega) hx (by omega)

/-- At the instant of its last known change a line has the level of that change. -/
@[simp] theorem tailAt_self (tail : Option Nat) (t : Nat) (cur : Level) : (tailAt tail t cur t).1 = cur := by
  cases tail with
  | none => rfl
  | some k =>
    cases hg : Config.freeGap k 0 with
    | none => simp [tailAt, tailWalk, hg]
    | some g => simp [tailAt, tailWalk, hg, show ¬ t + g + 1 ≤ t by omega]

/-- A line with nothing further stays as it is. -/
@[simp] theorem tailAt_none (since : Nat) (cur : Level) (t : Nat) : tailAt none since cur t = (cur, none) := rfl

theorem firstAfter_some {tail : Option Nat} {v cur : Level} {l : List (Nat × Level)} {since t u : Nat} (hs : since ≤ t)
    (h : firstAfter tail v since cur l t = some u) :
    t ≤ u ∧ levelAfter tail since cur l u = v ∧ ∀ x, t ≤ x → x < u → levelAfter tail since cur l x ≠ v := by
  induction l generalizing cur t since with
  | nil =>
    simp only [firstAfter] at h
    split at h
    · obtain rfl := Option.some.inj h
      exact ⟨le_refl _, ‹_›, fun x h1 h2 => absurd h1 (by omega)⟩
    · have hv := ‹¬ (tailAt tail since cur t).1 = v›
      have hu := ((tailAt_spec hs (le_refl t)).2 u h).1
      refine ⟨hu.le, ?_, fun x hx hxu => ?_⟩
      · simp only [levelAfter, ((tailAt_spec hs hu.le).2 u h).2.2 rfl]
        exact (level_ne_iff.1 (Ne.symm hv)).symm
      · simpa only [levelAfter, ((tailAt_spec hs hx).2 u h).2.1 hxu] using hv
  | cons y l ih =>
    obtain ⟨i, lev⟩ := y
    simp only [firstAfter] at h
    split at h
    · rename_i hti
      split at h
      · obtain rfl := Option.some.inj h
        refine ⟨le_refl _, ?_, fun x h1 h2 => absurd h1 (by omega)⟩
        have : ¬ i ≤ t := by omega
        simpa [levelAfter, this] using ‹cur = v›
      · obtain ⟨h1, h2, h3⟩ := ih (le_refl i) h
        refine ⟨by omega, by simp [levelAfter, h1, h2], fun x hx hxu => ?_⟩
        simp only [levelAfter]
        split
        · exact h3 x ‹_› hxu
        · assumption
    · obtain ⟨h1, h2, h3⟩ := ih (by omega) h
      have hi : i ≤ u := by omega
      refine ⟨h1, by simp [levelAfter, hi, h2], fun x hx hxu => ?_⟩
      have hix : i ≤ x := by omega
      simpa [levelAfter, hix] using h3 x hx hxu

theorem firstAfter_none {tail : Option Nat} {v cur : Level} {l : List (Nat × Level)} {since t : Nat} (hs : since ≤ t)
    (h : firstAfter tail v since cur l t = none) : ∀ x, t ≤ x → levelAfter tail since cur l x ≠ v := by
  induction l generalizing cur t since with
  | nil =>
    simp only [firstAfter] at h
    split at h
    · exact absurd h (by simp)
    · intro x hx
      simpa only [levelAfter, (tailAt_spec hs hx).1 h] using ‹¬ (tailAt tail since cur t).1 = v›
  | cons y l ih =>
    obtain ⟨i, lev⟩ := y
    simp only [firstAfter] at h
    intro x hx
    simp only [levelAfter]
    split at h
    · split at h
      · exact absurd h (by simp)
      · split
        · exact ih (le_refl i) h x ‹_›
        · assumption
    · rw [if_pos (by omega : i ≤ x)]
      exact ih (by omega) h x hx

/-- The least instant from `t` on at which the line reads `v`. -/
theorem first_some {w : Wave} {v : Level} {t u : Nat} :
    w.first v t = some u ↔ t ≤ u ∧ w.level u = v ∧ ∀ x, t ≤ x → x < u → w.level x ≠ v := by
  refine ⟨firstAfter_some (Nat.zero_le t), fun ⟨h1, h2, h3⟩ => ?_⟩
  cases h : w.first v t with
  | none => exact absurd h2 (firstAfter_none (Nat.zero_le t) h u h1)
  | some u' =>
    obtain ⟨g1, g2, g3⟩ := firstAfter_some (Nat.zero_le t) h
    rcases Nat.lt_trichotomy u u' with hlt | rfl | hlt
    · exact absurd h2 (g3 u h1 hlt)
    · rfl
    · exact absurd g2 (h3 u' g1 hlt)

/-- The line never reads `v` from `t` on. -/
theorem first_none {w : Wave} {v : Level} {t : Nat} : w.first v t = none ↔ ∀ x, t ≤ x → w.level x ≠ v := by
  refine ⟨firstAfter_none (Nat.zero_le t), fun h => ?_⟩
  cases hf : w.first v t with
  | none => rfl
  | some u => exact have hu := firstAfter_some (Nat.zero_le t) hf; absurd hu.2.1 (h u hu.1)

/-- A line that reads `v` now satisfies the wait at once (D23). -/
theorem first_now {w : Wave} {v : Level} {t : Nat} (h : w.level t = v) : w.first v t = some t :=
  first_some.2 ⟨le_refl _, h, fun _ h1 h2 => absurd h1 (by omega)⟩

/-- Transitions that are not after `t` only set the level, and the instant since when, that the later ones start from. -/
theorem levelAfter_append {tail : Option Nat} {earlier : List (Nat × Level)} {t : Nat} (h : ∀ x ∈ earlier, x.1 ≤ t)
    {since : Nat} (hs : since ≤ t) (cur : Level) (rest : List (Nat × Level)) :
    ∃ since' c, since' ≤ t ∧ levelAfter tail since cur (earlier ++ rest) t = levelAfter tail since' c rest t := by
  induction earlier generalizing cur since with
  | nil => exact ⟨since, cur, hs, rfl⟩
  | cons y earlier ih =>
    obtain ⟨i, l⟩ := y
    have hi : i ≤ t := h (i, l) (by simp)
    obtain ⟨s', c, hc, e⟩ := ih (fun x hx => h x (by simp [hx])) hi l
    exact ⟨s', c, hc, by simp [levelAfter, hi, e]⟩

/-! ### No function of time is left out (60_exceptions.md R205, 92_eei_decisions.md D31) -/

/-- The next instant after `t` at which a function of time no longer has the level it has at `t`, as a gap. -/
noncomputable def nextGap (f : Nat → Level) (t : Nat) : Option Nat := by
  classical
  exact if h : ∃ g, f (t + g + 1) ≠ f t then some (Nat.find h) else none

/-- The instant of a function's `n`-th change (the last one, if it changes less often). -/
noncomputable def changeInstant (f : Nat → Level) : Nat → Nat
  | 0 => 0
  | n + 1 => match nextGap f (changeInstant f n) with
    | none => changeInstant f n
    | some g => changeInstant f n + g + 1

theorem nextGap_some {f : Nat → Level} {t g : Nat} (h : nextGap f t = some g) :
    f (t + g + 1) = !f t ∧ ∀ x, t ≤ x → x < t + g + 1 → f x = f t := by
  classical
  unfold nextGap at h
  split at h
  · rename_i hex
    obtain rfl := Option.some.inj h
    refine ⟨level_ne_iff.1 (Nat.find_spec hex), fun x h1 h2 => ?_⟩
    obtain rfl | hlt := Nat.eq_or_lt_of_le h1
    · rfl
    · have hm := Nat.find_min hex (m := x - t - 1) (by omega)
      have hx : t + (x - t - 1) + 1 = x := by omega
      rwa [hx, not_not] at hm
  · exact absurd h (by simp)

theorem nextGap_none {f : Nat → Level} {t x : Nat} (h : nextGap f t = none) (hx : t ≤ x) : f x = f t := by
  classical
  unfold nextGap at h
  split at h
  · exact absurd h (by simp)
  · rename_i hno
    obtain rfl | hlt := Nat.eq_or_lt_of_le hx
    · rfl
    · have hm := not_exists.1 hno (x - t - 1)
      have e : t + (x - t - 1) + 1 = x := by omega
      rwa [e, not_not] at hm

/-- Every function of time, however often it changes, is the tail of a line for some free source: a statement that holds
for whatever `Config.freeGap` is holds for all of them. -/
theorem tailWalk_represents (f : Nat → Level) : ∃ gaps : Nat → Option Nat, ∀ t, (tailWalk gaps (t + 1) 0 0 (f 0) t).1 = f t := by
  refine ⟨fun n => nextGap f (changeInstant f n), fun t => ?_⟩
  have main : ∀ fuel n, changeInstant f n ≤ t → t < changeInstant f n + fuel →
      (tailWalk (fun n => nextGap f (changeInstant f n)) fuel n (changeInstant f n) (f (changeInstant f n)) t).1 = f t := by
    intro fuel
    induction fuel with
    | zero => intro n h1 h2; omega
    | succ fuel ih =>
      intro n h1 h2
      cases hg : nextGap f (changeInstant f n) with
      | none => simpa [tailWalk, hg] using (nextGap_none hg h1).symm
      | some g =>
        obtain ⟨e1, e2⟩ := nextGap_some hg
        by_cases ht : changeInstant f n + g + 1 ≤ t
        · have hc : changeInstant f (n + 1) = changeInstant f n + g + 1 := by simp [changeInstant, hg]
          have := ih (n + 1) (by omega) (by omega)
          rw [hc, e1] at this
          simpa [tailWalk, hg, ht] using this
        · simpa [tailWalk, hg, ht] using (e2 t h1 (by omega)).symm
  exact main (t + 1) 0 (Nat.zero_le t) (by simp [changeInstant])

end Sys2Proof.Machine
end

