-- ==== Sys2Proof/Laws/Ops.lean ====
section
/-! SUPPORT. For each shared operation, once, everything it can do: later proofs cite these lemmas and do not unfold the
operations. -/

namespace Sys2Proof.Machine

/-- Going on answers a next state only through one. -/
theorem andThen_next {o : Result} {f : State → Result} {t : State} :
    andThen o f = .next t ↔ ∃ s, o = .next s ∧ f s = .next t := by
  cases o <;> simp [andThen]

@[simp] theorem andThen_of_next (s : State) (f : State → Result) : andThen (.next s) f = f s := rfl

/-- An unbounded wait ends at the first instant of its condition, or leaves the machine where it is. -/
theorem afterWait_next {w : Wave} {v : Level} {s t : State} {k : State → State} :
    afterWait w v s k = .next t ↔
      (∃ u, w.first v s.now = some u ∧ t = k { s with now := u }) ∨ (w.first v s.now = none ∧ t = s) := by
  unfold afterWait waitLevel
  cases w.first v s.now <;> simp [eq_comm]

/-- The value the timer holds after measuring a wait that fits it. -/
theorem timer_toNat {d : Nat} (h : d ≤ tGap) : (BitVec.ofNat 21 d).toNat = d := by
  rw [BitVec.toNat_ofNat]
  exact Nat.mod_eq_of_lt (by simp only [tGap] at h; omega)

theorem boundedDelay_le (w : Wave) (v : Level) (d t : Nat) : boundedDelay w v d t ≤ d := by
  unfold boundedDelay
  split <;> omega

/-- The gap wait (41_frame_assembler.md R129): a start condition inside the window, or the silence. -/
theorem gapStep_cases (s : State) :
    (∃ u, s.env.data.first (!s.cfg.dataIdle) s.now = some u ∧ u < s.now + tGap ∧
      gapStep s = { s with now := u, timer := BitVec.ofNat 21 (u - s.now), phase := .byteHalf }) ∨
    ((∀ u, s.env.data.first (!s.cfg.dataIdle) s.now = some u → s.now + tGap ≤ u) ∧
      gapStep s = { s with now := s.now + tGap, timer := BitVec.ofNat 21 tGap, phase := .finish }) := by
  have hle := boundedDelay_le s.env.data (!s.cfg.dataIdle) tGap s.now
  have htimer : (waitLevelOr s.env.data (!s.cfg.dataIdle) tGap s).timer.toNat =
      boundedDelay s.env.data (!s.cfg.dataIdle) tGap s.now := by
    rw [waitLevelOr_timer, timer_toNat hle]
  unfold gapStep
  simp only [htimer]
  cases hf : s.env.data.first (!s.cfg.dataIdle) s.now with
  | none =>
    right
    have hd : boundedDelay s.env.data (!s.cfg.dataIdle) tGap s.now = tGap := by simp [boundedDelay, hf]
    refine ⟨by simp, ?_⟩
    rw [hd, if_neg (by omega)]
    simp [endBurst, waitLevelOr, waitFor, hd]
  | some u =>
    have hu : s.now ≤ u := (first_some.1 hf).1
    by_cases hlt : u < s.now + tGap
    · left
      have hd : boundedDelay s.env.data (!s.cfg.dataIdle) tGap s.now = u - s.now := by
        simp only [boundedDelay, hf]; omega
      refine ⟨u, rfl, hlt, ?_⟩
      rw [hd, if_pos (by omega)]
      simp only [beginByte, waitLevelOr, waitFor, hd]
      rw [show s.now + (u - s.now) = u by omega]
    · right
      have hd : boundedDelay s.env.data (!s.cfg.dataIdle) tGap s.now = tGap := by
        simp only [boundedDelay, hf]; omega
      refine ⟨fun x hx => by have := Option.some.inj hx; omega, ?_⟩
      rw [hd, if_neg (by omega)]
      simp [endBurst, waitLevelOr, waitFor, hd]

/-- The store of a received byte (41_frame_assembler.md R127, R128). -/
theorem storeByte_next {s t : State} :
    storeByte s = .next t ↔
      (s.rxlen.toNat = bufCap ∧ t = { s with phase := .fault }) ∨
      (s.rxlen.toNat < bufCap ∧
        t = { s with rxbuf := s.rxbuf.write s.rxlen.toNat s.shreg, rxlen := s.rxlen + 1, phase := .gap }) := by
  unfold storeByte storeIndex storeCell
  by_cases h1 : s.rxlen.toNat = bufCap
  · simp [h1, takeOverflow, eq_comm]
  · by_cases h2 : s.rxlen.toNat < bufCap
    · simp [h1, h2, eq_comm]
    · simp [h1, h2]

/-- One transition of RXBYTE (40_bit_sampler.md R101). -/
theorem samplerStep_next {s t : State} (h : samplerStep s = .next t) :
    (s.phase = .byteHalf ∧ t = startSampling s) ∨
    (s.phase = .byteBits ∧ s.bitcnt.toNat < nBits ∧ t = takeSample s) ∨
    (s.phase = .byteBits ∧ nBits ≤ s.bitcnt.toNat ∧ t = { s with phase := .byteStop }) ∨
    (s.phase = .byteStop ∧
      ((∃ u, s.env.data.first s.cfg.dataIdle s.now = some u ∧ t = { s with now := u }) ∨
       (s.env.data.first s.cfg.dataIdle s.now = none ∧ t = s))) := by
  unfold samplerStep at h
  split at h <;> rename_i hp
  · exact .inl ⟨hp, by simpa using h.symm⟩
  · by_cases hb : s.bitcnt.toNat < nBits
    · rw [if_pos hb] at h
      exact .inr (.inl ⟨hp, hb, by simpa using h.symm⟩)
    · rw [if_neg hb] at h
      exact .inr (.inr (.inl ⟨hp, by omega, by simpa using h.symm⟩))
  · exact .inr (.inr (.inr ⟨hp, afterWait_next.1 h⟩))
  all_goals exact absurd h (by simp)

/-- A character frame (40_bit_sampler.md R101, R105). -/
theorem execChar_next {b : Byte} {s t : State} (h : execChar b s = .next t) :
    s.phase = .byteHalf ∧
      ((∃ u, s.env.data.first s.cfg.dataIdle (receivedChar b s).now = some u ∧ t = { receivedChar b s with now := u }) ∨
       (s.env.data.first s.cfg.dataIdle (receivedChar b s).now = none ∧ t = receivedChar b s)) := by
  unfold execChar at h
  split at h <;> rename_i hp
  · exact ⟨hp, afterWait_next.1 h⟩
  all_goals exact absurd h (by simp)

/-- One transition of RXFRAME (41_frame_assembler.md R121). -/
theorem framerStep_next {s t : State} (h : framerStep s = .next t) :
    (s.phase = .idle ∧ attnAsserted s = true ∧ t = acknowledge { s with rxlen := 0 }) ∨
    (s.phase = .idle ∧ attnAsserted s = false ∧ t = { s with rxlen := 0 }) ∨
    (s.phase = .attnPoll ∧
      ((∃ u, s.env.attn.first s.cfg.attnAssert s.now = some u ∧ t = acknowledge { s with now := u }) ∨
       (s.env.attn.first s.cfg.attnAssert s.now = none ∧ t = s))) ∨
    (s.phase = .hsAck ∧
      ((∃ u, s.env.attn.first (!s.cfg.attnAssert) s.now = some u ∧ t = releaseReq { s with now := u }) ∨
       (s.env.attn.first (!s.cfg.attnAssert) s.now = none ∧ t = s))) ∨
    (s.phase = .firstStart ∧
      ((∃ u, s.env.data.first (!s.cfg.dataIdle) s.now = some u ∧ t = beginByte { s with now := u }) ∨
       (s.env.data.first (!s.cfg.dataIdle) s.now = none ∧ t = s))) ∨
    ((s.phase = .byteHalf ∨ s.phase = .byteBits ∨ (s.phase = .byteStop ∧ dataIdle s = false)) ∧ samplerStep s = .next t) ∨
    (s.phase = .byteStop ∧ dataIdle s = true ∧ storeByte s = .next t) ∨
    (s.phase = .gap ∧ t = gapStep s) := by
  unfold framerStep at h
  split at h <;> rename_i hp
  · have ha : attnAsserted { s with rxlen := 0 } = attnAsserted s := rfl
    simp only [ha] at h
    cases hs : attnAsserted s <;> simp only [hs] at h
    · exact .inr (.inl ⟨hp, rfl, by simpa using h.symm⟩)
    · exact .inl ⟨hp, rfl, by simpa using h.symm⟩
  · exact .inr (.inr (.inl ⟨hp, afterWait_next.1 h⟩))
  · exact .inr (.inr (.inr (.inl ⟨hp, afterWait_next.1 h⟩)))
  · exact .inr (.inr (.inr (.inr (.inl ⟨hp, afterWait_next.1 h⟩))))
  · exact .inr (.inr (.inr (.inr (.inr (.inl ⟨.inl hp, h⟩)))))
  · exact .inr (.inr (.inr (.inr (.inr (.inl ⟨.inr (.inl hp), h⟩)))))
  · split at h
    · exact .inr (.inr (.inr (.inr (.inr (.inr (.inl ⟨hp, ‹_›, h⟩))))))
    · exact .inr (.inr (.inr (.inr (.inr (.inl ⟨.inr (.inr ⟨hp, by simpa using ‹¬ dataIdle s = true›⟩), h⟩)))))
  · exact .inr (.inr (.inr (.inr (.inr (.inr (.inr ⟨hp, by simpa using h.symm⟩))))))
  all_goals exact absurd h (by simp)

/-- The issue of a GETKEY (43_key_decoder.md R172, first four rows). -/
theorem issueGetkey_next {b : Bool} {s t : State} (h : issueGetkey b s = .next t) :
    s.phase = .idle ∧
      ((attnAsserted s = true ∧ t = acknowledge { s with cmdBlocking := b, rxlen := 0 }) ∨
       (attnAsserted s = false ∧ b = true ∧ t = { s with cmdBlocking := b, rxlen := 0, phase := .attnPoll }) ∨
       (attnAsserted s = false ∧ b = false ∧ t = complete 0x0000 { s with cmdBlocking := b, rxlen := 0 })) := by
  unfold issueGetkey at h
  have ha : attnAsserted { s with cmdBlocking := b, rxlen := 0 } = attnAsserted s := rfl
  simp only [ha] at h
  by_cases hp : s.phase = .idle
  · rw [if_pos hp] at h
    refine ⟨hp, ?_⟩
    cases hs : attnAsserted s <;> cases b <;> simp [hs] at h ⊢ <;> exact h.symm
  · rw [if_neg hp] at h
    exact absurd h (by simp)

/-- VALIDATE changes SCAN only (42_packet_validator.md R144). -/
theorem execValidate_next {s t : State} (h : execValidate s = .next t) :
    ∃ code, validCode s = .ok code ∧ t = { s with scan := code } := by
  unfold execValidate at h
  split at h
  · exact ⟨_, ‹_›, by simpa using h.symm⟩
  · exact absurd h (by simp)

/-- The code VALIDATE produces, when the cells it may read hold values (42_packet_validator.md R141). -/
theorem validCode_eq {s : State} {b0 b1 b2 : Byte} (h0 : s.rxbuf.read 0 = some b0) (h1 : s.rxbuf.read 1 = some b1)
    (h2 : s.rxbuf.read 2 = some b2) :
    validCode s = .ok (if pktLen ≤ s.rxlen.toNat ∧ b0 = preamble0 ∧ b1 = preamble1 then b2 else 0x00) := by
  have e0 : loadCell s 0 = .ok b0 := loadCell_ok.2 ⟨by decide, h0⟩
  have e1 : loadCell s 1 = .ok b1 := loadCell_ok.2 ⟨by decide, h1⟩
  have e2 : loadCell s 2 = .ok b2 := loadCell_ok.2 ⟨by decide, h2⟩
  unfold validCode
  simp only [e0, e1, e2]
  by_cases a : pktLen ≤ s.rxlen.toNat <;> by_cases b : b0 = preamble0 <;> by_cases c : b1 = preamble1 <;> simp [a, b, c]

/-- A buffer shorter than a packet gives scan code 0 whatever its cells hold (42_packet_validator.md R141). -/
theorem validCode_short {s : State} (h : s.rxlen.toNat < pktLen) : validCode s = .ok 0x00 := by
  unfold validCode
  rw [if_neg (by omega)]

/-- A first byte that is not 0x15 gives scan code 0 whatever the other cells hold (42_packet_validator.md R141). -/
theorem validCode_bad_first {s : State} {b : Byte} (h0 : s.rxbuf.read 0 = some b) (hb : b ≠ preamble0) :
    validCode s = .ok 0x00 := by
  have e0 : loadCell s 0 = .ok b := loadCell_ok.2 ⟨by decide, h0⟩
  unfold validCode
  simp only [e0, if_neg hb, ite_self]

/-- A second byte that is not 0x35 gives scan code 0 whatever the third cell holds (42_packet_validator.md R141). -/
theorem validCode_bad_second {s : State} {b0 b : Byte} (h0 : s.rxbuf.read 0 = some b0) (h1 : s.rxbuf.read 1 = some b)
    (hb : b ≠ preamble1) : validCode s = .ok 0x00 := by
  have e0 : loadCell s 0 = .ok b0 := loadCell_ok.2 ⟨by decide, h0⟩
  have e1 : loadCell s 1 = .ok b := loadCell_ok.2 ⟨by decide, h1⟩
  unfold validCode
  simp only [e0, e1, if_neg hb, ite_self]

/-- Bits 15:12 of a packed result are 0 (30_encoding.md R75). -/
theorem packEvent_top (mask : BitVec 4) (ch : Byte) : (packEvent mask ch).extractLsb' 12 4 = 0 := by
  apply BitVec.eq_of_getLsbD_eq
  intro i hi
  have h4 : mask.getLsbD (12 + i - 8) = false := BitVec.getLsbD_of_ge _ _ (by omega)
  have h8 : ch.getLsbD (12 + i) = false := BitVec.getLsbD_of_ge _ _ (by omega)
  simp [packEvent, h4, h8]

end Sys2Proof.Machine
end

