-- ==== Sys2Proof/Laws/PerInstr.lean ====
section
/-! SUPPORT. The family EncodeFormat, stated of every instruction: its words are of the format the opcode table gives its
row, and it has words unless it is one of the internal operations (00_scope.md R3). -/

namespace Sys2Proof.Laws.EncodeFormat

/-- The words of an instruction are of its row's format; an internal operation has none. -/
def Statement (i : Instr) : Prop :=
  ∀ c : Config, match encode c i with
    | some e => e.format = i.format ∧ i.format ≠ .internal
    | none => i.format = .internal

theorem getkeyNb : Statement .getkeyNb := fun _ => ⟨rfl, by decide⟩
theorem getkeyB : Statement .getkeyB := fun _ => ⟨rfl, by decide⟩
theorem char (bits : Byte) : Statement (.char bits) := fun _ => ⟨rfl, Format.noConfusion⟩
theorem pkt (code : Byte) : Statement (.pkt code) := fun _ => ⟨rfl, Format.noConfusion⟩
theorem nokey : Statement .nokey := fun _ => ⟨rfl, by decide⟩
theorem shiftDn : Statement .shiftDn := fun _ => ⟨rfl, by decide⟩
theorem shiftUp : Statement .shiftUp := fun _ => ⟨rfl, by decide⟩
theorem ctrlDn : Statement .ctrlDn := fun _ => ⟨rfl, by decide⟩
theorem ctrlUp : Statement .ctrlUp := fun _ => ⟨rfl, by decide⟩
theorem altDn : Statement .altDn := fun _ => ⟨rfl, by decide⟩
theorem altUp : Statement .altUp := fun _ => ⟨rfl, by decide⟩
theorem fnDn : Statement .fnDn := fun _ => ⟨rfl, by decide⟩
theorem fnUp : Statement .fnUp := fun _ => ⟨rfl, by decide⟩
theorem caps : Statement .caps := fun _ => ⟨rfl, by decide⟩
theorem keyup : Statement .keyup := fun _ => ⟨rfl, by decide⟩
theorem key (code : Byte) : Statement (.key code) := fun _ => ⟨rfl, Format.noConfusion⟩
theorem keyQ : Statement .keyQ := fun _ => ⟨rfl, by decide⟩
theorem keyS : Statement .keyS := fun _ => ⟨rfl, by decide⟩
theorem event (fn alt ctrl shift : Bool) (ch : Byte) : Statement (.event fn alt ctrl shift ch) :=
  fun _ => ⟨rfl, Format.noConfusion⟩
theorem rxbyte : Statement .rxbyte := fun _ => rfl
theorem rxframe : Statement .rxframe := fun _ => rfl
theorem validate : Statement .validate := fun _ => rfl
theorem decode : Statement .decode := fun _ => rfl

end Sys2Proof.Laws.EncodeFormat
end

