-- ==== Sys2Proof/Laws/Step.lean ====
section
/-! SUPPORT. What a step can do: the inversion lemmas of the sequencer, from which invariants follow. -/

namespace Sys2Proof.Machine

/-- The instruction a scan code selects completes the command: it may update MOD, writes a result whose bits 15:12 are
0, and enters IDLE (43_key_decoder.md R154 to R165). -/
theorem exec_scan_next {c : Config} {code : Byte} {s t : State} (h : exec (decodeScan c code) s = .next t) :
    ∃ m w, t = { s with mods := m, event := w, phase := .idle } ∧ w.extractLsb' 12 4 = 0 := by
  unfold decodeScan at h
  have key : ∀ k, Host.Outcome.next (keyEvent k s) = Host.Outcome.next (φ := Fault) (ρ := Refusal) t →
      ∃ m w, t = { s with mods := m, event := w, phase := .idle } ∧ w.extractLsb' 12 4 = 0 := fun k hk =>
    ⟨s.mods, keyResult s.cfg s.mods k, by simpa [keyEvent, complete] using hk.symm, packEvent_top _ _⟩
  have modifier : ∀ f, Host.Outcome.next (modifierEvent f s) = Host.Outcome.next (φ := Fault) (ρ := Refusal) t →
      ∃ m w, t = { s with mods := m, event := w, phase := .idle } ∧ w.extractLsb' 12 4 = 0 := fun f hk =>
    ⟨f s.mods, 0x0000, by simpa [modifierEvent, complete, setMods] using hk.symm, by decide⟩
  split at h
  · exact ⟨s.mods, 0x0000, by simpa [exec, execNokey, complete] using h.symm, by decide⟩
  · exact modifier _ h
  · exact modifier _ h
  · exact modifier _ h
  · exact modifier _ h
  · exact modifier _ h
  · exact modifier _ h
  · exact modifier _ h
  · exact modifier _ h
  · exact modifier _ h
  · exact ⟨s.mods, 0x0000, by simpa [exec, execKeyup, complete] using h.symm, by decide⟩
  · split at h
    · exact key _ h
    · split at h
      · exact key _ h
      · exact key _ h

/-- The step in PHASE FINISH (43_key_decoder.md R172). -/
theorem finishStep_next {s t : State} (h : finishStep s = .next t) :
    ∃ code m w, validCode s = .ok code ∧
      t = { s with scan := code, mods := m, event := w, phase := .idle } ∧ w.extractLsb' 12 4 = 0 := by
  obtain ⟨u, hu, ht⟩ := andThen_next.1 h
  obtain ⟨code, hc, rfl⟩ := execValidate_next hu
  obtain ⟨m, w, rfl, hw⟩ := exec_scan_next ht
  exact ⟨code, m, w, hc, rfl, hw⟩

/-- The step in PHASE IDLE (70_reset_and_hazards.md R222, 43_key_decoder.md R172). -/
theorem idleStep_next {s t : State} (h : idleStep s = .next t) :
    (s.env.commands = [] ∧ t = s) ∨
    ∃ cmd rest, s.env.commands = cmd :: rest ∧ s.now ≤ cmd.issue ∧
      ∃ b, issueGetkey b (acceptCommand cmd s) = .next t := by
  unfold idleStep at h
  split at h
  · exact .inl ⟨‹_›, by simpa using h.symm⟩
  · rename_i cmd rest hc
    split at h
    · exact absurd h (by simp)
    · refine .inr ⟨cmd, rest, hc, by omega, ?_⟩
      unfold decodeCommand at h
      split at h
      · exact ⟨false, h⟩
      · exact ⟨true, h⟩

/-- One transition of the phase graph (43_key_decoder.md R172): the operation that ran. -/
theorem sequencerStep_next {s t : State} (h : sequencerStep s = .next t) :
    (s.phase = .idle ∧ idleStep s = .next t) ∨
    (s.phase = .finish ∧ finishStep s = .next t) ∨
    ((s.phase = .byteHalf ∨ s.phase = .byteBits ∨ (s.phase = .byteStop ∧ dataIdle s = false)) ∧
      samplerStep s = .next t) ∨
    ((s.phase = .attnPoll ∨ s.phase = .hsAck ∨ s.phase = .firstStart ∨ s.phase = .gap ∨
        (s.phase = .byteStop ∧ dataIdle s = true)) ∧ framerStep s = .next t) := by
  unfold sequencerStep at h
  split at h <;> rename_i hp
  · exact .inl ⟨hp, h⟩
  · exact .inr (.inr (.inr ⟨.inl hp, h⟩))
  · exact .inr (.inr (.inr ⟨.inr (.inl hp), h⟩))
  · exact .inr (.inr (.inr ⟨.inr (.inr (.inl hp)), h⟩))
  · exact .inr (.inr (.inr ⟨.inr (.inr (.inr (.inl hp))), h⟩))
  · exact .inr (.inr (.inl ⟨.inl hp, h⟩))
  · exact .inr (.inr (.inl ⟨.inr (.inl hp), h⟩))
  · split at h
    · exact .inr (.inr (.inr ⟨.inr (.inr (.inr (.inr ⟨hp, ‹_›⟩))), h⟩))
    · exact .inr (.inr (.inl ⟨.inr (.inr ⟨hp, by simpa using ‹¬ dataIdle s = true›⟩), h⟩))
  · exact .inr (.inl ⟨hp, h⟩)
  · exact absurd h (by simp)

/-- One step: RESET, or a transition of the sequencer; never under a configuration that breaks 00_scope.md R9. -/
theorem step_next {s t : State} (h : step s = .next t) :
    s.cfg.valid = true ∧
      ((∃ r, resetDue s = some r ∧ t = applyReset r s) ∨ (resetDue s = none ∧ sequencerStep s = .next t)) := by
  unfold step machineStep at h
  split at h
  · refine ⟨‹_›, ?_⟩
    split at h
    · exact .inl ⟨_, ‹_›, by simpa using h.symm⟩
    · exact .inr ⟨‹_›, h⟩
  · exact absurd h (by simp)

/-- With a valid configuration and no RESET due, a step is the sequencer's transition. -/
theorem step_eq_sequencer {s : State} (hv : s.cfg.valid = true) (hr : resetDue s = none) :
    step s = sequencerStep s := by
  simp [step, machineStep, hv, hr]

/-- No RESET is due when none is to come. -/
theorem resetDue_nil {s : State} (h : s.env.resets = []) : resetDue s = none := by
  simp [resetDue, h]

/-- When a RESET is due, and at which instant (70_reset_and_hazards.md R220). -/
theorem resetDue_some {s : State} {r : Nat} (h : resetDue s = some r) :
    ∃ x rest, s.env.resets = x :: rest ∧ r = max x s.now ∧ ∀ u, nextInstant s = some u → x ≤ u := by
  unfold resetDue at h
  split at h
  · exact absurd h (by simp)
  · rename_i x rest hx
    refine ⟨x, rest, hx, ?_⟩
    split at h
    · exact ⟨by simpa using h.symm, fun u hu => by simp_all⟩
    · rename_i u hu
      split at h
      · exact ⟨by simpa using h.symm, fun v hv => by simp_all⟩
      · exact absurd h (by simp)

end Sys2Proof.Machine
end

