-- ==== Sys2Proof/Tests/Slice0.lean ====
section
/-! SUPPORT. Tests of one step each, with results taken from 95_test_vectors.md and from the encoding tables of
30_encoding.md; the checks of WellFormed on ill-formed terms and configurations; and, for every statement with
hypotheses, a state and operands that meet them. -/

namespace Sys2Proof.Tests

open Sys2Proof.Machine

/-! ### WellFormed refuses what is ill-formed (00_scope.md R9, 30_encoding.md R78) -/

theorem test_cfgT_is_valid : cfgT.valid = true ∧ cfgT0.valid = true := by decide

theorem test_equal_dedicated_codes_refused : { cfgT with scAltPress := 0x81 }.valid = false := by decide

theorem test_dedicated_code_zero_refused : { cfgT with scCaps := 0x00 }.valid = false := by decide

theorem test_dedicated_code_q_refused : { cfgT with scFnRelease := 0x17 }.valid = false := by decide

theorem test_dedicated_code_s_refused : { cfgT with scShiftPress := 0x27 }.valid = false := by decide

theorem test_dedicated_code_in_table_refused : { cfgT with scKeyReleased := 0x40 }.valid = false := by decide

theorem test_table_row_zero_refused :
    { cfgT with keytab := (0x00, ⟨0x41, none⟩) :: cfgT.keytab }.valid = false := by decide

theorem test_table_without_q_refused : { cfgT with keytab := [(0x27, ⟨0x73, none⟩)] }.valid = false := by decide

theorem test_wrong_q_row_refused :
    { cfgT with keytab := [(0x17, ⟨0x71, none⟩), (0x27, ⟨0x73, none⟩)] }.valid = false := by decide

theorem test_wrong_s_row_refused :
    { cfgT with keytab := [(0x17, ⟨0x71, some 0x51⟩), (0x27, ⟨0x74, none⟩)] }.valid = false := by decide

theorem test_rows_out_of_order_refused :
    { cfgT with keytab := [(0x27, ⟨0x73, none⟩), (0x17, ⟨0x71, some 0x51⟩)] }.valid = false := by decide

theorem test_key_zero_ill_formed : (Instr.key 0x00).wellFormed cfgT = false := by decide

theorem test_key_dedicated_ill_formed : (Instr.key 0x89).wellFormed cfgT = false := by decide

theorem test_key_q_ill_formed : (Instr.key 0x17).wellFormed cfgT = false := by decide

theorem test_key_s_ill_formed : (Instr.key 0x27).wellFormed cfgT = false := by decide

/-! ### Decoding: one word for each constructor, its bits written out from 30_encoding.md R71, R73, R75, R77 and R78
under CFG-T of 95_test_vectors.md section 0 -/

theorem test_decode_getkeyNb : decode cfgT (.command 0b0) = .ok .getkeyNb := by rfl

theorem test_decode_getkeyB : decode cfgT (.command 0b1) = .ok .getkeyB := by rfl

theorem test_decode_char : decode cfgT (.frame [false, false, false, false, true, false, true, false, true, true]) = .ok (.char 0x15) := by rfl

theorem test_decode_pkt : decode cfgT (.packet [0b00010101, 0b00110101, 0b00100111]) = .ok (.pkt 0x27) := by rfl

theorem test_decode_nokey : decode cfgT (.scanCode 0b00000000) = .ok .nokey := by rfl

theorem test_decode_shiftDn : decode cfgT (.scanCode 0b10000001) = .ok .shiftDn := by rfl

theorem test_decode_shiftUp : decode cfgT (.scanCode 0b10000010) = .ok .shiftUp := by rfl

theorem test_decode_ctrlDn : decode cfgT (.scanCode 0b10000011) = .ok .ctrlDn := by rfl

theorem test_decode_ctrlUp : decode cfgT (.scanCode 0b10000100) = .ok .ctrlUp := by rfl

theorem test_decode_altDn : decode cfgT (.scanCode 0b10000101) = .ok .altDn := by rfl

theorem test_decode_altUp : decode cfgT (.scanCode 0b10000110) = .ok .altUp := by rfl

theorem test_decode_fnDn : decode cfgT (.scanCode 0b10000111) = .ok .fnDn := by rfl

theorem test_decode_fnUp : decode cfgT (.scanCode 0b10001000) = .ok .fnUp := by rfl

theorem test_decode_caps : decode cfgT (.scanCode 0b10001001) = .ok .caps := by rfl

theorem test_decode_keyup : decode cfgT (.scanCode 0b10001010) = .ok .keyup := by rfl

theorem test_decode_key : decode cfgT (.scanCode 0b10011001) = .ok (.key 0x99) := by rfl

theorem test_decode_keyQ : decode cfgT (.scanCode 0b00010111) = .ok .keyQ := by rfl

theorem test_decode_keyS : decode cfgT (.scanCode 0b00100111) = .ok .keyS := by rfl

theorem test_decode_event : decode cfgT (.result 0b0000100100010011) = .ok (.event true false false true 0x13) := by rfl

/-- The same byte with DATA_IDLE = 0: only start and stop change (40_bit_sampler.md R104). -/
theorem test_decode_char_other_polarity :
    decode cfgT0 (.frame [true, false, false, false, true, false, true, false, true, false]) = .ok (.char 0x15) := by rfl

theorem test_decode_long_packet_ignores_the_rest :
    decode cfgT (.packet [0x15, 0x35, 0x17, 0xAA]) = .ok (.pkt 0x17) := by rfl

theorem test_decode_short_packet_rejected : decode cfgT (.packet [0x15, 0x35]) = .error .shortPacket := by rfl

theorem test_decode_eleven_bytes_rejected :
    decode cfgT (.packet [0x15, 0x35, 3, 4, 5, 6, 7, 8, 9, 10, 11]) = .error .longBurst := by rfl

theorem test_decode_swapped_preamble_rejected :
    decode cfgT (.packet [0x35, 0x15, 0x17]) = .error .badPreamble := by rfl

theorem test_decode_reserved_bit_rejected :
    decode cfgT (.result 0b0001000001110001) = .error .reservedBits := by rfl

/-! The rejections of a frame word are the model's choice (log entry 28), no condition of the line. -/

theorem test_decode_no_start_rejected :
    decode cfgT (.frame [true, false, false, false, true, false, true, false, true, true]) =
      .error .noStartCondition := by rfl

theorem test_decode_no_stop_rejected :
    decode cfgT (.frame [false, false, false, false, true, false, true, false, true, false]) =
      .error .noStopCondition := by rfl

theorem test_decode_nine_symbols_rejected :
    decode cfgT (.frame [false, false, false, false, true, false, true, false, true]) = .error .frameLength := by rfl

/-- The table numbers a packet as the 24-bit value 0x153500 + s. -/
theorem test_table_word_packet : decodeTableWord 24 0x153517 = some (.pkt 0x17) := by rfl

theorem test_table_word_result : decodeTableWord 16 0x0213 = some (.event false false true false 0x13) := by rfl

/-! ### One step each. Helpers: a state with CFG-T, given lines and phase; a condition on the next state. -/

/-- CFG-T, given flags, lines and phase, at an instant. -/
def base (c : Config) (m : Mods) (data attn : Wave) (p : Phase) (t : Nat) : State :=
  { State.afterReset c ⟨data, attn, [], []⟩ t with mods := m, phase := p }

/-- The next state satisfies a condition. -/
def nextHas (r : Result) (f : State → Bool) : Bool :=
  match r with
  | .next t => f t
  | .fault _ => false
  | .refused _ => false

/-- A line that reads one level for ever. -/
def still (v : Level) : Wave := ⟨v, [], none⟩

/-- A state in FINISH or IDLE with a scan code and flags (shift, ctrl, alt, fn, caps). -/
def coded (code : Byte) (sh ct al fn ca : Bool) : State :=
  { base cfgT ⟨sh, ct, al, fn, ca⟩ (still true) (still false) .finish 100 with scan := code, rxlen := 3 }

/-- The flags, result and phase after a meaning. -/
def gives (r : Result) (m : Mods) (w : Word16) : Bool :=
  nextHas r (fun t => decide (t.mods = m) && decide (t.event = w) && decide (t.phase = .idle))

/-- V-G-1: GETKEY.NB at 7, nothing pending. -/
theorem test_getkeyNb_nothing_pending :
    nextHas (step { base cfgT ⟨true, false, false, false, false⟩ (still true) (still false) .idle 0 with
        rxlen := 4, event := 0x0151, env := ⟨still true, still false, [⟨7, 0⟩], []⟩ })
      (fun t => decide (t.now = 7 ∧ t.event = 0 ∧ t.rxlen = 0 ∧ t.req = false ∧ t.phase = .idle ∧ t.mods.shift = true)) =
      true := by decide

/-- V-G-5: ATTN rises at the very instant of the command. -/
theorem test_getkeyNb_attention_at_issue :
    nextHas (exec .getkeyNb (base cfgT Mods.none (still true) ⟨false, [(10000, true), (20000, false)], none⟩ .idle 10000))
      (fun t => decide (t.now = 10000 ∧ t.req = true ∧ t.phase = .hsAck)) = true := by decide

/-- P1, instant 0: ATTN is not asserted, the blocking command polls. -/
theorem test_getkeyB_polls :
    nextHas (exec .getkeyB (base cfgT Mods.none (still true) ⟨false, [(10000, true), (20000, false)], none⟩ .idle 0))
      (fun t => decide (t.now = 0 ∧ t.req = false ∧ t.rxlen = 0 ∧ t.cmdBlocking = true ∧ t.phase = .attnPoll)) =
      true := by decide

/-- P1 under CFG-T0, instant 10000: REQ asserted is the level 0. -/
theorem test_getkeyB_other_polarity :
    nextHas (exec .getkeyB (base cfgT0 Mods.none (still false) ⟨true, [(10000, false), (20000, true)], none⟩ .idle 10000))
      (fun t => decide (t.req = false ∧ t.phase = .hsAck)) = true := by decide

/-- R108: the eighth sample of TX([0x15], 1000) is taken at 886411 and completes the byte. -/
theorem test_rxbyte_eighth_sample :
    nextHas (exec .rxbyte { base cfgT Mods.none (txWave true [0x15] 1000) (still false) .byteBits 782245 with
        shreg := 0b00001010, bitcnt := 7 })
      (fun t => decide (t.now = 886411 ∧ t.shreg = 0x15 ∧ t.bitcnt = 8 ∧ t.phase = .byteStop)) = true := by decide

/-- V-B-19: a transition at exactly the first sample instant is seen. -/
theorem test_rxbyte_transition_at_sample :
    nextHas (exec .rxbyte (base cfgT Mods.none ⟨true, [(0, false), (104166, true), (156249, false), (208332, true)], none⟩
        (still false) .byteBits 52083))
      (fun t => decide (t.now = 156249 ∧ t.shreg = 0x00 ∧ t.bitcnt = 1 ∧ t.phase = .byteBits)) = true := by decide

/-- V-B-5: 0x00 with DATA_IDLE = 1 returns at the stop bit. -/
theorem test_char_zero :
    nextHas (exec (.char 0x00) (base cfgT Mods.none ⟨true, [(0, false), (937494, true)], none⟩ (still false) .byteHalf 0))
      (fun t => decide (t.now = 937494 ∧ t.shreg = 0x00 ∧ t.bitcnt = 8)) = true := by decide

/-- V-B-12: the same byte with DATA_IDLE = 0 returns at the eighth sample. -/
theorem test_char_zero_other_polarity :
    nextHas (exec (.char 0x00) (base cfgT0 Mods.none ⟨false, [(0, true), (104166, false)], none⟩ (still true) .byteHalf 0))
      (fun t => decide (t.now = 885411 ∧ t.shreg = 0x00)) = true := by decide

/-- V-F-5: a start condition exactly T_GAP after the byte is too late. -/
theorem test_rxframe_gap_is_half_open :
    nextHas (exec .rxframe { base cfgT Mods.none ⟨true, [(2886411, false)], none⟩ (still false) .gap 886411 with rxlen := 1 })
      (fun t => decide (t.now = 2886411 ∧ t.rxlen = 1 ∧ t.phase = .finish)) = true := by decide

/-- V-F-4: one nanosecond earlier it begins the next byte. -/
theorem test_rxframe_gap_last_instant :
    nextHas (exec .rxframe { base cfgT Mods.none ⟨true, [(2886410, false)], none⟩ (still false) .gap 886411 with rxlen := 1 })
      (fun t => decide (t.now = 2886410 ∧ t.rxlen = 1 ∧ t.phase = .byteHalf)) = true := by decide

/-- P5: the eleventh byte, at 11384094. -/
theorem test_step_overflow :
    nextHas (step { base cfgT Mods.none ⟨true, [(10446600, false), (11384094, true)], none⟩ (still false) .byteStop 11384094
        with rxlen := 10, shreg := 0x1A })
      (fun t => decide (t.phase = .fault ∧ t.rxlen = 10 ∧ t.shreg = 0x1A ∧ t.event = 0 ∧ t.now = 11384094)) =
      true := by decide

/-- V-V-12. -/
theorem test_validate_packet :
    nextHas (exec .validate { coded 0x99 true false false false false with
        rxbuf := [(0, 0x15), (1, 0x35), (2, 0x17)] })
      (fun t => decide (t.scan = 0x17 ∧ t.mods.shift = true)) = true := by decide

/-- V-V-4: the stale third cell of a short burst is not read. -/
theorem test_validate_short :
    nextHas (exec .validate { coded 0x99 false false false false false with
        rxlen := 2, rxbuf := [(0, 0x15), (1, 0x35), (2, 0x17)] })
      (fun t => decide (t.scan = 0x00)) = true := by decide

/-- V-V-13 as a packet. -/
theorem test_pkt : nextHas (exec (.pkt 0x27) (coded 0x99 false false false false false))
    (fun t => decide (t.scan = 0x27)) = true := by decide


/-- V-D-S step 16: no mask for code 0. -/
theorem test_nokey :
    gives (exec .nokey (coded 0x00 false false true false false)) ⟨false, false, true, false, false⟩ 0x0000 = true := by decide

/-- V-D-S step 2: a second press leaves the flag at 1. -/
theorem test_shiftDn_again :
    gives (exec .shiftDn (coded 0x81 true false false false false)) ⟨true, false, false, false, false⟩ 0x0000 = true := by decide

/-- V-D-S step 4. -/
theorem test_shiftUp :
    gives (exec .shiftUp (coded 0x82 true false false false false)) ⟨false, false, false, false, false⟩ 0x0000 = true := by decide

/-- V-D-S step 20. -/
theorem test_ctrlDn :
    gives (exec .ctrlDn (coded 0x83 false false true false false)) ⟨false, true, true, false, false⟩ 0x0000 = true := by decide

/-- P3 step 10. -/
theorem test_ctrlUp :
    gives (exec .ctrlUp (coded 0x84 false true false false false)) ⟨false, false, false, false, false⟩ 0x0000 = true := by decide

/-- V-D-S step 15. -/
theorem test_altDn :
    gives (exec .altDn (coded 0x85 false false false false false)) ⟨false, false, true, false, false⟩ 0x0000 = true := by decide

/-- V-D-S step 11. -/
theorem test_altUp :
    gives (exec .altUp (coded 0x86 false false false false false)) ⟨false, false, false, false, false⟩ 0x0000 = true := by decide

/-- P3 step 12. -/
theorem test_fnDn :
    gives (exec .fnDn (coded 0x87 false false true false false)) ⟨false, false, true, true, false⟩ 0x0000 = true := by decide

/-- 43_key_decoder.md R162. -/
theorem test_fnUp :
    gives (exec .fnUp (coded 0x88 false false true true false)) ⟨false, false, true, false, false⟩ 0x0000 = true := by decide

/-- P3 step 15. -/
theorem test_caps_on :
    gives (exec .caps (coded 0x89 false false true true false)) ⟨false, false, true, true, true⟩ 0x0000 = true := by decide

/-- V-D-S step 9. -/
theorem test_caps_off :
    gives (exec .caps (coded 0x89 false false false false true)) ⟨false, false, false, false, false⟩ 0x0000 = true := by decide

/-- V-D-22. -/
theorem test_keyup :
    gives (exec .keyup (coded 0x8A true true false false true)) ⟨true, true, false, false, true⟩ 0x0000 = true := by decide

/-- V-D-38: 125 is converted. -/
theorem test_key_ctrl_edge :
    gives (exec (.key 0x30) (coded 0x30 false true false false false)) ⟨false, true, false, false, false⟩ 0x021D = true := by decide

/-- V-D-40: 126 is not. -/
theorem test_key_ctrl_beyond :
    gives (exec (.key 0x31) (coded 0x31 false true false false false)) ⟨false, true, false, false, false⟩ 0x027E = true := by decide

/-- V-D-27. -/
theorem test_keyQ_shift_ctrl :
    gives (exec .keyQ (coded 0x17 true true false false false)) ⟨true, true, false, false, false⟩ 0x0351 = true := by decide

/-- V-D-32. -/
theorem test_keyQ_conversion :
    gives (exec .keyQ (coded 0x17 false true true true false)) ⟨false, true, true, true, false⟩ 0x0E11 = true := by decide

/-- V-D-34. -/
theorem test_keyS_ctrl :
    gives (exec .keyS (coded 0x27 false true false false false)) ⟨false, true, false, false, false⟩ 0x0213 = true := by decide

/-- V-D-36. -/
theorem test_keyS_fallback :
    gives (exec .keyS (coded 0x27 true true false false false)) ⟨true, true, false, false, false⟩ 0x0373 = true := by decide

/-- 30_encoding.md R76, the example. -/
theorem test_event :
    gives (exec (.event false false true false 0x13) (coded 0x00 true false false false true)) ⟨true, false, false, false, true⟩ 0x0213 = true := by decide

/-- V-D-54. -/
theorem test_decode_unknown :
    gives (exec .decode (coded 0x99 true true true true false)) ⟨true, true, true, true, false⟩ 0x0F00 = true := by decide

/-- V-D-41: 96 is outside the range. -/
theorem test_decode_below_range :
    gives (exec .decode (coded 0x32 false true false false false)) ⟨false, true, false, false, false⟩ 0x0260 = true := by decide
/-! ### Witnesses: a state and operands that meet the hypotheses of each statement, clause by clause -/

/-- A line with one transition. -/
def edge (before : Level) (t : Nat) : Wave := ⟨before, [(t, !before)], none⟩

/-- CFG-T with no flag active. -/
def plain (data attn : Wave) (p : Phase) (t : Nat) : State := base cfgT Mods.none data attn p t

/-- An idle block with one command to come. -/
def commanded (issue t : Nat) (w : BitVec 1) : State :=
  { plain (still true) (still false) .idle t with env := ⟨still true, still false, [⟨issue, w⟩], []⟩ }

/-- A burst in RXBUF, with PHASE FINISH. -/
def received (bytes : List Byte) : State :=
  { plain (still true) (still false) .finish 4998731 with
    rxlen := BitVec.ofNat 4 bytes.length, rxbuf := bytes.zipIdx.map (fun b => (b.2, b.1)) }

/-- RXBYTE has returned an eleventh byte. -/
def full : State :=
  { received [0, 1, 2, 3, 4, 5, 6, 7, 8, 9] with phase := .byteStop }

theorem first_instant {w : Wave} {v : Level} {t u : Nat} (h : w.first v t = some u) : firstInstant w v t u :=
  first_some.1 h

theorem never_reads {w : Wave} {v : Level} {t : Nat} (h : w.first v t = none) : neverReads w v t := first_none.1 h

/-- The burst of P1 satisfies the invariant. -/
theorem received_invariant : MachineInv (received [0x15, 0x35, 0x17]) := by
  refine ⟨by decide, by decide, fun i hi => ?_, by decide, by decide, by decide, (by decide : 1 ≤ (3 : Nat))⟩
  have h3 : i < 3 := hi
  have : i = 0 ∨ i = 1 ∨ i = 2 := by omega
  rcases this with rfl | rfl | rfl <;> exact ⟨_, rfl⟩

theorem short_invariant : MachineInv (received [0x15]) := by
  refine ⟨by decide, by decide, fun i hi => ?_, by decide, by decide, by decide, (by decide : 1 ≤ (1 : Nat))⟩
  have h1 : i < 1 := hi
  obtain rfl : i = 0 := by omega
  exact ⟨_, rfl⟩

theorem fault_invariant : MachineInv { full with phase := .fault } := by
  refine ⟨by decide, by decide, fun i hi => ?_, by decide, by decide, by decide, rfl⟩
  have h10 : i < 10 := hi
  have : i = 0 ∨ i = 1 ∨ i = 2 ∨ i = 3 ∨ i = 4 ∨ i = 5 ∨ i = 6 ∨ i = 7 ∨ i = 8 ∨ i = 9 := by omega
  rcases this with rfl | rfl | rfl | rfl | rfl | rfl | rfl | rfl | rfl | rfl <;> exact ⟨_, rfl⟩

theorem witness_StepRunsIssuedCommand :
    ∃ s h rest i, s.cfg.valid = true ∧ resetDue s = none ∧ s.phase = .idle ∧ s.env.commands = h :: rest ∧
      s.now ≤ h.issue ∧ decode s.cfg (.command h.word) = .ok i :=
  ⟨commanded 7 7 1, ⟨7, 1⟩, [], .getkeyB, by decide, by decide, rfl, rfl, by decide, rfl⟩

theorem witness_StepRunsReceivedScanCode :
    ∃ s t i, s.cfg.valid = true ∧ resetDue s = none ∧ s.phase = .finish ∧ exec .validate s = .next t ∧
      decode t.cfg (.scanCode t.scan) = .ok i :=
  ⟨received [0x15, 0x35, 0x17], { received [0x15, 0x35, 0x17] with scan := 0x17 }, .keyQ, by decide, by decide, rfl, rfl,
    rfl⟩

theorem witness_StepRunsSequencerOperation :
    (∃ s : State, s.cfg.valid = true ∧ resetDue s = none ∧ s.phase = .gap) ∧
    (∃ s : State, s.cfg.valid = true ∧ resetDue s = none ∧ s.phase = .byteBits) ∧
    (∃ s : State, s.cfg.valid = true ∧ resetDue s = none ∧ s.phase = .byteStop ∧
      s.env.data.level s.now = s.cfg.dataIdle) ∧
    (∃ s : State, s.cfg.valid = true ∧ resetDue s = none ∧ s.phase = .byteStop ∧
      s.env.data.level s.now ≠ s.cfg.dataIdle) :=
  ⟨⟨plain (still true) (still false) .gap 0, by decide, by decide, rfl⟩,
   ⟨plain (still true) (still false) .byteBits 0, by decide, by decide, rfl⟩,
   ⟨plain (still true) (still false) .byteStop 0, by decide, by decide, rfl, by decide⟩,
   ⟨plain (still false) (still false) .byteStop 0, by decide, by decide, rfl, by decide⟩⟩

theorem witness_CommandBitSelectsTheMode :
    ∃ i j, decode cfgT (.command 0) = .ok i ∧ decode cfgT (.command 1) = .ok j := ⟨.getkeyNb, .getkeyB, rfl, rfl⟩

theorem witness_DecodeOfEncodeIsIdentity :
    ∃ c i e, Config.valid c = true ∧ Instr.wellFormed c i = true ∧ i.format ≠ .internal ∧ encode c i = some e :=
  ⟨cfgT0, .key 0x30, .scanCode 0x30, by decide, by decide, by decide, rfl⟩

theorem witness_DecodedWordsReencode :
    (∃ e i, decode cfgT e = .ok i ∧ ∀ bytes, e ≠ .packet bytes) ∧
    (∃ e i bytes, decode cfgT e = .ok i ∧ e = .packet bytes) :=
  ⟨⟨.result 0x0FFF, .event true true true true 0xFF, rfl, by simp⟩,
   ⟨.packet [0x15, 0x35, 0, 0, 0, 0, 0, 0, 0, 0], .pkt 0, _, rfl, rfl⟩⟩

theorem witness_ScanCodesSelectTheirClass :
    ∃ c code, Config.valid c = true ∧ code ≠ 0x00 ∧ code ∉ c.dedicated := ⟨cfgT, 0x99, by decide, by decide, by decide⟩

/-- FAULT, one nanosecond before a sample, and FINISH, where only a tie is possible. -/
theorem witness_ResetAtAnyInstant :
    (∃ s r rest, s.cfg.valid = true ∧ s.env.resets = r :: rest ∧ (∀ u, nextInstant s = some u → r ≤ u) ∧
      s.phase = .fault) ∧
    (∃ s r rest, s.cfg.valid = true ∧ s.env.resets = r :: rest ∧ (∀ u, nextInstant s = some u → r ≤ u) ∧
      s.phase = .byteBits ∧ s.now < r) ∧
    (∃ s r rest, s.cfg.valid = true ∧ s.env.resets = r :: rest ∧ (∀ u, nextInstant s = some u → r ≤ u) ∧
      s.phase = .finish ∧ r = s.now) :=
  ⟨⟨{ full with phase := .fault, env := { full.env with resets := [4998731] } }, 4998731, [], by decide, rfl,
     fun u h => absurd h (by simp [nextInstant]), rfl⟩,
   ⟨{ plain (still false) (still false) .byteBits 1000 with env := ⟨still false, still false, [], [105165]⟩ }, 105165, [],
     by decide, rfl,
     fun u h => by
       have : u = 105166 := by simpa [nextInstant, plain, base, State.afterReset, nBits, tBit, eq_comm] using h
       omega, rfl, by decide⟩,
   ⟨{ plain (still true) (still false) .finish 5 with env := ⟨still true, still false, [], [5]⟩ }, 5, [], by decide, rfl,
     fun u h => by
       have : u = 5 := by simpa [nextInstant, plain, base, State.afterReset, eq_comm] using h
       omega, rfl, rfl⟩⟩

theorem witness_GetkeyIssueTransitions :
    (∃ s : State, s.phase = .idle ∧ s.env.attn.level s.now ≠ s.cfg.attnAssert) ∧
    (∃ s : State, s.phase = .idle ∧ s.env.attn.level s.now = s.cfg.attnAssert) :=
  ⟨⟨plain (still true) (edge false 10) .idle 9, rfl, by decide⟩, ⟨plain (still true) (edge false 10) .idle 10, rfl, by decide⟩⟩

theorem witness_GetkeyWhileBusyIsRefused :
    (∃ s : State, s.phase ≠ .idle) ∧
    (∃ (s : State) (h : HostCommand) (rest : List HostCommand), s.cfg.valid = true ∧ resetDue s = none ∧
      s.phase = .idle ∧ s.env.commands = h :: rest ∧ h.issue < s.now) :=
  ⟨⟨plain (still true) (still false) .finish 0, by decide⟩,
   ⟨commanded 6 7 0, ⟨6, 0⟩, [], by decide, by decide, rfl, rfl, by decide⟩⟩

theorem witness_BlockingCommandIsPollThenNonblocking :
    ∃ (s : State) (u : Nat), s.phase = .idle ∧ s.env.attn.level s.now ≠ s.cfg.attnAssert ∧
      firstInstant s.env.attn s.cfg.attnAssert s.now u :=
  ⟨plain (still true) (edge false 10000) .idle 0, 10000, rfl, by decide, first_instant (by decide)⟩

theorem witness_RxframeLooksOnceAtAttention :
    (∃ s : State, s.phase = .idle ∧ s.env.attn.level s.now ≠ s.cfg.attnAssert) ∧
    (∃ s : State, s.phase = .idle ∧ s.env.attn.level s.now = s.cfg.attnAssert) :=
  ⟨⟨plain (still true) (edge false 1) .idle 0, rfl, by decide⟩, ⟨plain (still true) (edge false 1) .idle 1, rfl, by decide⟩⟩

theorem witness_AttentionPollAcknowledges :
    ∃ (s : State) (u : Nat), s.phase = .attnPoll ∧ firstInstant s.env.attn s.cfg.attnAssert s.now u :=
  ⟨plain (still true) (edge false 10000) .attnPoll 0, 10000, rfl, first_instant (by decide)⟩

theorem witness_HandshakeReleasesAtDeassertion :
    (∃ (s : State) (u : Nat), s.phase = .hsAck ∧ firstInstant s.env.attn (!s.cfg.attnAssert) s.now u) ∧
    (∃ s : State, s.phase = .hsAck ∧ neverReads s.env.attn (!s.cfg.attnAssert) s.now) :=
  ⟨⟨plain (still true) (edge true 500) .hsAck 0, 500, rfl, first_instant (by decide)⟩,
   ⟨plain (still true) (still true) .hsAck 0, rfl, never_reads (by decide)⟩⟩

theorem witness_FirstStartConditionBeginsByte :
    (∃ (s : State) (u : Nat), s.phase = .firstStart ∧ firstInstant s.env.data (!s.cfg.dataIdle) s.now u ∧ u = s.now) ∧
    (∃ s : State, s.phase = .firstStart ∧ neverReads s.env.data (!s.cfg.dataIdle) s.now) :=
  ⟨⟨plain (edge true 100) (still false) .firstStart 500, 500, rfl, first_instant (by decide), rfl⟩,
   ⟨plain (still true) (still false) .firstStart 500, rfl, never_reads (by decide)⟩⟩

theorem witness_ReceivedByteIsStored :
    (∃ s : State, s.phase = .byteStop ∧ s.env.data.level s.now = s.cfg.dataIdle ∧ s.rxlen.toNat < bufCap ∧
      storeIndex s = 0) ∧
    (∃ s : State, s.phase = .byteStop ∧ s.env.data.level s.now = s.cfg.dataIdle ∧ s.rxlen.toNat < bufCap ∧
      storeIndex s = 9) :=
  ⟨⟨plain (still true) (still false) .byteStop 0, rfl, by decide, by decide, by decide⟩,
   ⟨{ full with rxlen := 9 }, rfl, by decide, by decide, by decide⟩⟩

theorem witness_EleventhByteIsTheOverflowFault :
    ∃ s : State, s.phase = .byteStop ∧ s.env.data.level s.now = s.cfg.dataIdle ∧ s.rxlen.toNat = bufCap ∧
      s.cfg.valid = true ∧ s.env.resets = [] := ⟨full, rfl, by decide, by decide, by decide, rfl⟩

theorem witness_GapEndsWithStartOrSilence :
    (∃ (s : State) (u : Nat), s.phase = .gap ∧ firstInstant s.env.data (!s.cfg.dataIdle) s.now u ∧
      u < s.now + 2000000 ∧ u = s.now + 1999999) ∧
    (∃ s : State, s.phase = .gap ∧
      (∀ x, s.now ≤ x → x < s.now + 2000000 → s.env.data.level x = s.cfg.dataIdle) ∧
      s.env.data.level (s.now + 2000000) ≠ s.cfg.dataIdle) := by
  refine ⟨⟨plain (edge true 2886410) (still false) .gap 886411, 2886410, rfl, first_instant (by decide), by decide, by decide⟩,
    ⟨plain (edge true 2886411) (still false) .gap 886411, rfl, fun x _ hx => ?_, by decide⟩⟩
  have hx' : ¬ 2886411 ≤ x := by
    have : x < 886411 + 2000000 := hx
    omega
  simp [plain, base, State.afterReset, edge, Wave.level, levelAfter, hx', cfgT]

theorem witness_TimerHoldsTheTimeMeasured :
    (∃ s : State, s.phase = .byteHalf) ∧ (∃ s : State, s.phase = .byteBits ∧ s.bitcnt.toNat < 8) ∧
    (∃ s : State, s.phase = .gap) :=
  ⟨⟨plain (still false) (still false) .byteHalf 0, rfl⟩, ⟨plain (still false) (still false) .byteBits 0, rfl, by decide⟩,
   ⟨plain (still true) (still false) .gap 0, rfl⟩⟩

theorem witness_RxframeWritesNothingElse :
    ∃ s t : State, exec .rxframe s = .next t ∧ s.phase = .byteStop :=
  ⟨full, { full with phase := .fault }, rfl, rfl⟩

theorem witness_RxbyteWaitsHalfABit : ∃ s : State, s.phase = .byteHalf :=
  ⟨plain (still false) (still false) .byteHalf 0, rfl⟩

theorem witness_RxbyteTakesOneSample :
    (∃ s : State, s.phase = .byteBits ∧ s.bitcnt.toNat < 8 ∧ s.bitcnt = 0) ∧
    (∃ s : State, s.phase = .byteBits ∧ s.bitcnt.toNat < 8 ∧ s.bitcnt = 7) :=
  ⟨⟨plain (still false) (still false) .byteBits 0, rfl, by decide, rfl⟩,
   ⟨{ plain (still false) (still false) .byteBits 0 with bitcnt := 7 }, rfl, by decide, rfl⟩⟩

theorem witness_RxbyteReceivesEightSamples : ∃ s : State, s.phase = .byteHalf ∧ sampledByte s.env.data s.now = 0x15 :=
  ⟨plain (txWave true [0x15] 1000) (still false) .byteHalf 1000, rfl, by decide⟩

theorem witness_RxbyteWaitsForTheStopCondition :
    (∃ (s : State) (u : Nat), s.phase = .byteStop ∧ firstInstant s.env.data s.cfg.dataIdle s.now u ∧ u = s.now) ∧
    (∃ (s : State) (u : Nat), s.phase = .byteStop ∧ firstInstant s.env.data s.cfg.dataIdle s.now u ∧ s.now < u) ∧
    (∃ s : State, s.phase = .byteStop ∧ neverReads s.env.data s.cfg.dataIdle s.now) :=
  ⟨⟨plain (still true) (still false) .byteStop 5, 5, rfl, first_instant (by decide), rfl⟩,
   ⟨plain (edge false 937494) (still false) .byteStop 885411, 937494, rfl, first_instant (by decide), by decide⟩,
   ⟨plain (still false) (still false) .byteStop 885411, rfl, never_reads (by decide)⟩⟩

theorem witness_RxbyteWritesNothingElse :
    ∃ s t : State, exec .rxbyte s = .next t ∧ (s.phase = .byteHalf ∨ s.phase = .byteBits ∨ s.phase = .byteStop) :=
  ⟨plain (still false) (still false) .byteHalf 0, _, rfl, .inl rfl⟩

theorem witness_CharIsReceivedWhole :
    (∃ (s : State) (u : Nat), s.phase = .byteHalf ∧ firstInstant s.env.data s.cfg.dataIdle (s.now + 885411) u) ∧
    (∃ s : State, s.phase = .byteHalf ∧ neverReads s.env.data s.cfg.dataIdle (s.now + 885411)) :=
  ⟨⟨plain (txWave true [0x00] 0) (still false) .byteHalf 0, 937494, rfl, first_instant (by decide)⟩,
   ⟨plain (still false) (still false) .byteHalf 0, rfl, never_reads (by decide)⟩⟩

theorem witness_RxbyteReceivesTheCharacterOnTheLine : ∃ s : State, s.phase = .byteHalf :=
  ⟨plain (txWave true [0x17] 1000) (still false) .byteHalf 1000, rfl⟩

/-- Both edges of 70_reset_and_hazards.md R241, with a second byte back to back and a line that goes on freely after it. -/
theorem witness_TransmittedByteIsReceived :
    ∀ p, p = 98380 ∨ p = 110676 →
      ∃ (s : State) (b : Byte) (before : Level) (earlier later : List (Nat × Level))
          (tail : Option Nat), s.phase = .byteHalf ∧ 98380 ≤ p ∧ p ≤ 110676 ∧
        s.env.data = ⟨before, earlier ++ (txByte s.cfg.dataIdle p b s.now ++ later), tail⟩ ∧
        (∀ x ∈ earlier, x.1 ≤ s.now) ∧ (∀ x ∈ later.head?, s.now + 10 * p ≤ x.1) ∧ earlier ≠ [] ∧ later ≠ [] ∧
        tail = some 0 := by
  intro p hp
  refine ⟨plain ⟨false, [(7, true)] ++ (txByte true p 0xFE 500 ++ txByte true p 0x15 (500 + 10 * p)), some 0⟩ (still false)
    .byteHalf 500, 0xFE, false, [(7, true)], txByte true p 0x15 (500 + 10 * p), some 0, rfl, by omega, by omega, rfl,
    ?_, ?_, by simp, by simp [txByte], rfl⟩
  · intro x hx
    obtain rfl : x = (7, true) := by simpa using hx
    exact (by decide : 7 ≤ 500)
  · intro x hx
    simp only [txByte, List.head?_cons, Option.mem_some_iff] at hx
    subst hx
    exact le_refl (500 + 10 * p)

theorem witness_ValidateYieldsTheScanCode :
    (∃ (s : State) (b0 b1 b2 : Byte), s.rxbuf.read 0 = some b0 ∧ s.rxbuf.read 1 = some b1 ∧ s.rxbuf.read 2 = some b2 ∧
      s.rxlen.toNat = 3) ∧
    (∃ s : State, s.rxlen.toNat < 3 ∧ s.rxbuf.read 2 = none) :=
  ⟨⟨received [0x15, 0x35, 0x17], 0x15, 0x35, 0x17, rfl, rfl, rfl, rfl⟩, ⟨received [0x15, 0x35], by decide, rfl⟩⟩

theorem witness_PacketYieldsItsScanCode :
    ∃ (s : State) (code : Byte), 3 ≤ s.rxlen.toNat ∧ s.rxbuf.read 0 = some 0x15 ∧ s.rxbuf.read 1 = some 0x35 ∧
      s.rxbuf.read 2 = some code := ⟨received [0x15, 0x35, 0x17], 0x17, by decide, rfl, rfl, rfl⟩

theorem witness_ValidateWritesScanOnly : ∃ s t : State, exec .validate s = .next t :=
  ⟨received [0x15, 0x35, 0x17], { received [0x15, 0x35, 0x17] with scan := 0x17 }, rfl⟩

theorem witness_ValidateDecodesTheBurst :
    (∃ s i, MachineInv s ∧ decode s.cfg (.packet (burstBytes s)) = .ok i) ∧
    (∃ s e, MachineInv s ∧ decode s.cfg (.packet (burstBytes s)) = .error e) :=
  ⟨⟨_, .pkt 0x17, received_invariant, rfl⟩, ⟨_, .shortPacket, short_invariant, rfl⟩⟩

theorem witness_DecodeRunsTheSelectedInstruction :
    ∃ (s : State) (i : Instr), decode s.cfg (.scanCode s.scan) = .ok i :=
  ⟨coded 0x99 false false false false false, .key 0x99, rfl⟩

theorem witness_PressCodesSetTheirFlag :
    ∀ k ∈ [cfgT.scShiftPress, cfgT.scCtrlPress, cfgT.scAltPress, cfgT.scFnPress],
      ∃ s : State, s.cfg = cfgT ∧ s.cfg.valid = true ∧ s.scan = k :=
  fun k _ => ⟨coded k true true true true true, rfl, test_cfgT_is_valid.1, rfl⟩

theorem witness_ReleaseCodesClearTheirFlag :
    ∀ k ∈ [cfgT.scShiftRelease, cfgT.scCtrlRelease, cfgT.scAltRelease, cfgT.scFnRelease],
      ∃ s : State, s.cfg = cfgT ∧ s.cfg.valid = true ∧ s.scan = k :=
  fun k _ => ⟨coded k true true true true true, rfl, test_cfgT_is_valid.1, rfl⟩

theorem witness_CapsInvertsAndFeedsNothing :
    (∃ s : State, s.cfg.valid = true ∧ s.scan = s.cfg.scCaps) ∧
    (∃ s t : State, s.cfg.valid = true ∧ exec .decode s = .next t) :=
  ⟨⟨coded 0x89 false false false false true, by decide, rfl⟩,
   ⟨coded 0x00 true false false false true, { coded 0x00 true false false false true with phase := .idle }, by decide, rfl⟩⟩

theorem witness_NullCodesChangeNothing :
    (∃ s : State, s.cfg.valid = true ∧ s.scan = 0x00) ∧ (∃ s : State, s.cfg.valid = true ∧ s.scan = s.cfg.scKeyReleased) :=
  ⟨⟨coded 0x00 true true true true true, by decide, rfl⟩, ⟨coded 0x8A true true true true true, by decide, rfl⟩⟩

theorem witness_KeyReportsTheModifierMask : ∃ s : State, s.scan ≠ 0x00 ∧ s.scan ∉ s.cfg.dedicated :=
  ⟨coded 0x99 true true true true true, by decide, by decide⟩

theorem witness_KeyWithShiftActive :
    (∃ (s : State) (e : KeyEntry) (ch : Byte), s.scan ≠ 0x00 ∧ s.scan ∉ s.cfg.dedicated ∧
      s.cfg.lookup s.scan = some e ∧ s.mods.shift = true ∧ e.shifted = some ch) ∧
    (∃ (s : State) (e : KeyEntry), s.scan ≠ 0x00 ∧ s.scan ∉ s.cfg.dedicated ∧
      s.cfg.lookup s.scan = some e ∧ s.mods.shift = true ∧ e.shifted = none ∧ s.mods.ctrl = true) :=
  ⟨⟨coded 0x17 true true false false false, ⟨0x71, some 0x51⟩, 0x51, by decide, by decide, rfl, rfl, rfl⟩,
   ⟨coded 0x27 true true false false false, ⟨0x73, none⟩, by decide, by decide, rfl, rfl, rfl, rfl⟩⟩

/-- The characters 97 and 125 are inside the range, 96 and 126 outside. -/
theorem witness_KeyWithShiftInactive :
    (∀ k, k = 0x33 ∨ k = 0x30 →
      ∃ (s : State) (e : KeyEntry), s.scan = k ∧ s.scan ≠ 0x00 ∧ s.scan ∉ s.cfg.dedicated ∧
        s.cfg.lookup s.scan = some e ∧ s.mods.shift = false ∧ s.mods.ctrl = true ∧
        (e.unshifted.toNat = 97 ∨ e.unshifted.toNat = 125)) ∧
    (∀ k, k = 0x32 ∨ k = 0x31 →
      ∃ (s : State) (e : KeyEntry), s.scan = k ∧ s.scan ≠ 0x00 ∧ s.scan ∉ s.cfg.dedicated ∧
        s.cfg.lookup s.scan = some e ∧ s.mods.shift = false ∧ s.mods.ctrl = true ∧
        (e.unshifted.toNat = 96 ∨ e.unshifted.toNat = 126)) := by
  refine ⟨?_, ?_⟩
  · rintro k (rfl | rfl)
    · exact ⟨coded 0x33 false true false false false, ⟨0x61, some 0x41⟩, rfl, by decide, by decide, rfl, rfl, rfl, by decide⟩
    · exact ⟨coded 0x30 false true false false false, ⟨0x7D, none⟩, rfl, by decide, by decide, rfl, rfl, rfl, by decide⟩
  · rintro k (rfl | rfl)
    · exact ⟨coded 0x32 false true false false false, ⟨0x60, none⟩, rfl, by decide, by decide, rfl, rfl, rfl, by decide⟩
    · exact ⟨coded 0x31 false true false false false, ⟨0x7E, none⟩, rfl, by decide, by decide, rfl, rfl, rfl, by decide⟩

theorem witness_UnknownCodeReturnsTheMaskAlone :
    ∃ s : State, s.scan ≠ 0x00 ∧ s.scan ∉ s.cfg.dedicated ∧ s.cfg.lookup s.scan = none :=
  ⟨coded 0x99 true false false false false, by decide, by decide, rfl⟩

theorem witness_KnownKeysResolve :
    ∀ sh ct, (sh = false ∧ ct = false) ∨ (sh = true ∧ ct = false) ∨ (sh = false ∧ ct = true) →
      ∃ s : State, s.cfg.valid = true ∧ s.mods.alt = false ∧ s.mods.fn = false ∧ s.mods.shift = sh ∧ s.mods.ctrl = ct :=
  fun sh ct _ => ⟨coded 0x17 sh ct false false true, test_cfgT_is_valid.1, rfl, rfl, rfl, rfl⟩

theorem witness_StepKeepsTheInvariant :
    ∃ s t : State, MachineInv s ∧ step s = .next t ∧ t.event = 0x0071 :=
  ⟨_, { received [0x15, 0x35, 0x17] with scan := 0x17, event := 0x0071, phase := .idle }, received_invariant, rfl, rfl⟩

theorem witness_OnlyOverflowFaults : ∃ (s : State) (f : Fault), MachineInv s ∧ step s = .fault f :=
  ⟨_, .rxOverflow, fault_invariant, rfl⟩

theorem witness_PhaseGraphHasNoOtherEdge :
    (∃ s t : State, resetDue s = none ∧ step s = .next t ∧ t ≠ s) ∧
    (∃ s t : State, resetDue s = none ∧ step s = .next t ∧ s.phase = .firstStart ∧ t = s) ∧
    (∃ s t : State, resetDue s = none ∧ step s = .next t ∧ s.phase = .idle ∧ s.env.commands = []) :=
  ⟨⟨received [0x15, 0x35, 0x17], { received [0x15, 0x35, 0x17] with scan := 0x17, event := 0x0071, phase := .idle },
     by decide, rfl, by decide⟩,
   ⟨plain (still true) (still false) .firstStart 5, _, by decide, rfl, rfl, rfl⟩,
   ⟨plain (still true) (still true) .idle 5, _, by decide, rfl, rfl, rfl⟩⟩

theorem witness_UnboundedWaitsHang :
    (∃ s : State, s.cfg.valid = true ∧ s.env.resets = [] ∧ s.phase = .attnPoll ∧
      neverReads s.env.attn s.cfg.attnAssert s.now) ∧
    (∃ s : State, s.cfg.valid = true ∧ s.env.resets = [] ∧ s.phase = .hsAck ∧
      neverReads s.env.attn (!s.cfg.attnAssert) s.now) ∧
    (∃ s : State, s.cfg.valid = true ∧ s.env.resets = [] ∧ s.phase = .firstStart ∧
      neverReads s.env.data (!s.cfg.dataIdle) s.now) ∧
    (∃ s : State, s.cfg.valid = true ∧ s.env.resets = [] ∧ s.phase = .byteStop ∧
      neverReads s.env.data s.cfg.dataIdle s.now) ∧
    (∃ s : State, s.cfg.valid = true ∧ s.env.resets = [] ∧ s.phase = .idle ∧ s.env.commands = []) :=
  ⟨⟨plain (still true) (still false) .attnPoll 0, by decide, rfl, rfl, never_reads (by decide)⟩,
   ⟨plain (still true) (still true) .hsAck 0, by decide, rfl, rfl, never_reads (by decide)⟩,
   ⟨plain (still true) (still false) .firstStart 0, by decide, rfl, rfl, never_reads (by decide)⟩,
   ⟨plain (still false) (still false) .byteStop 0, by decide, rfl, rfl, never_reads (by decide)⟩,
   ⟨plain (still true) (still true) .idle 0, by decide, rfl, rfl, rfl⟩⟩

theorem witness_EventIsWrittenAtCompletionOnly :
    ∃ s t : State, resetDue s = none ∧ step s = .next t ∧ t.event ≠ s.event :=
  ⟨received [0x15, 0x35, 0x17], { received [0x15, 0x35, 0x17] with scan := 0x17, event := 0x0071, phase := .idle },
    by decide, rfl, by decide⟩

theorem witness_AtMostOneFlagChanges :
    (∃ s t : State, resetDue s = none ∧ step s = .next t ∧ t.mods ≠ s.mods) ∧
    (∃ s t : State, resetDue s = none ∧ step s = .next t ∧ s.phase ≠ .finish) :=
  ⟨⟨received [0x15, 0x35, 0x81],
     { received [0x15, 0x35, 0x81] with scan := 0x81, mods := ⟨true, false, false, false, false⟩, phase := .idle },
     by decide, rfl, by decide⟩,
   ⟨full, { full with phase := .fault }, by decide, rfl, by decide⟩⟩

theorem witness_BufferIsWrittenOnlyByTheStore :
    ∃ s t : State, resetDue s = none ∧ step s = .next t ∧ s.phase = .byteStop ∧ t.rxbuf ≠ s.rxbuf :=
  ⟨{ full with rxlen := 9, shreg := 0x55 },
   { full with
     rxlen := 10, shreg := 0x55, phase := .gap
     rxbuf := [(0, 0), (1, 1), (2, 2), (3, 3), (4, 4), (5, 5), (6, 6), (7, 7), (8, 8), (9, 0x55)] },
   by decide, rfl, rfl, by decide⟩

theorem witness_ConfigurationAndLinesNeverChange : ∃ s t : State, step s = .next t ∧ s.now < t.now :=
  ⟨commanded 7 0 0, { commanded 7 0 0 with now := 7, env := ⟨still true, still false, [], []⟩ }, rfl, by decide⟩

/-- V-F-10 as the first burst after RESET, with cell 1 unwritten, and the two ways to spoil the preamble. -/
theorem witness_RejectedBurstIsANullEvent :
    (∃ s : State, s.cfg.valid = true ∧ resetDue s = none ∧ s.phase = .finish ∧ s.rxlen.toNat < 3 ∧
      s.rxbuf.read 1 = none) ∧
    (∃ s : State, s.cfg.valid = true ∧ resetDue s = none ∧ s.phase = .finish ∧ s.rxlen.toNat = 3 ∧
      ∃ b, s.rxbuf.read 0 = some b ∧ b ≠ 0x15) ∧
    (∃ s : State, s.cfg.valid = true ∧ resetDue s = none ∧ s.phase = .finish ∧ s.rxlen.toNat = 3 ∧
      s.rxbuf.read 0 = some 0x15 ∧ ∃ b, s.rxbuf.read 1 = some b ∧ b ≠ 0x35) :=
  ⟨⟨received [0x17], by decide, by decide, rfl, by decide, rfl⟩,
   ⟨received [0x14, 0x35, 0x17], by decide, by decide, rfl, by decide, 0x14, rfl, by decide⟩,
   ⟨received [0x15, 0x34, 0x17], by decide, by decide, rfl, by decide, rfl, 0x34, rfl, by decide⟩⟩

theorem witness_AcceptedBurstIsDecoded :
    ∃ (s : State) (code : Byte), s.cfg.valid = true ∧ resetDue s = none ∧ s.phase = .finish ∧ 3 ≤ s.rxlen.toNat ∧
      s.rxbuf.read 0 = some 0x15 ∧ s.rxbuf.read 1 = some 0x35 ∧ s.rxbuf.read 2 = some code :=
  ⟨received [0x15, 0x35, 0x17, 0xAA], 0x17, by decide, by decide, rfl, by decide, rfl, rfl, rfl⟩

theorem witness_BadConfigurationIsRefused : ∃ s : State, s.cfg.valid = false :=
  ⟨{ State.reset with cfg := { cfgT with scCaps := 0x00 } }, by decide⟩

/-- A line that inverts every 10 ns for ever: its level at a change and just before it, and its next change. -/
theorem test_tail_changes_without_end :
    let line := tailWalk (fun _ => some 9)
    (line 20 0 0 true 19).1 = false ∧ (line 21 0 0 true 20).1 = true ∧ (line 26 0 0 true 25).2 = some 30 := by decide

/-- Program P1 of 95_test_vectors.md. -/
theorem witness_BlockingCommandReturnsTheDecodedKey :
    ∃ (s : State) (rest : List HostCommand) (code : Byte) (t0 t1 t2 t3 : Nat) (tail : Option Nat),
      s.cfg.valid = true ∧ s.phase = .idle ∧ s.env.resets = [] ∧ s.env.commands = ⟨t0, 1⟩ :: rest ∧ s.now ≤ t0 ∧
      t0 < t1 ∧ t1 < t2 ∧ t2 ≤ t3 ∧
      s.env.attn = ⟨!s.cfg.attnAssert, [(t1, s.cfg.attnAssert), (t2, !s.cfg.attnAssert)], tail⟩ ∧
      s.env.data = txWave s.cfg.dataIdle (packetBytes code) t3 ∧ tail = some 3 :=
  ⟨{ State.reset with
     env := ⟨txWave true (packetBytes 0x17) 30000, ⟨false, [(10000, true), (20000, false)], some 3⟩, [⟨0, 1⟩], []⟩ },
   [], 0x17, 0, 10000, 20000, 30000, some 3, by decide, rfl, rfl, rfl, by decide, by decide, by decide, by decide, rfl, rfl,
   rfl⟩

end Sys2Proof.Tests
end

section
/-! The command map of 30_encoding.md R77: one equation for each value of CMD.blocking, and that there are no others. -/

namespace Sys2Proof

@[simp] theorem decode_command (c : Config) (w : BitVec 1) : decode c (.command w) = .ok (decodeCommand w) := rfl

@[simp] theorem decodeCommand_zero : decodeCommand 0 = .getkeyNb := rfl

@[simp] theorem decodeCommand_one : decodeCommand 1 = .getkeyB := rfl

/-- GETKEY is the one command, in its two modes. -/
theorem decodeCommand_eq_getkeyNb_or_getkeyB (w : BitVec 1) :
    decodeCommand w = .getkeyNb ∨ decodeCommand w = .getkeyB := by
  rcases BitVec.eq_zero_or_eq_one w with rfl | rfl
  · exact .inl decodeCommand_zero
  · exact .inr decodeCommand_one

/-- Settles O5: the two equations of the command map, and that a decoded command is one of their two modes. -/
theorem commandBitSelectsTheMode : Obligations.CommandBitSelectsTheMode := by
  unfold Obligations.CommandBitSelectsTheMode
  intro c w
  refine ⟨?blocking_zero, ?blocking_one, ?no_other⟩
  case blocking_zero => rintro rfl; rw [decode_command, decodeCommand_zero]
  case blocking_one => rintro rfl; rw [decode_command, decodeCommand_one]
  case no_other =>
    intro i hdecode
    obtain rfl : decodeCommand w = i := Except.ok.inj ((decode_command c w).symm.trans hdecode)
    exact decodeCommand_eq_getkeyNb_or_getkeyB w

end Sys2Proof
end

section
/-! The Bit Sampler (40_bit_sampler.md R101 to R104): the exact answer of RXBYTE while it receives the data bits, and the
whole reception of eight samples as one state, `receivedChar`. -/

namespace Sys2Proof.Machine

/-! ### One sample -/

theorem exec_rxbyte_of_byteHalf {s : State} (hphase : s.phase = .byteHalf) :
    exec .rxbyte s = .next (startSampling s) := by
  change samplerStep s = _
  simp only [samplerStep, hphase]

theorem exec_rxbyte_of_byteBits {s : State} (hphase : s.phase = .byteBits) (hcount : s.bitcnt.toNat < nBits) :
    exec .rxbyte s = .next (takeSample s) := by
  change samplerStep s = _
  simp only [samplerStep, hphase, if_pos hcount]

theorem zext8_getLsbD_zero (b : Level) : (zext8 b).getLsbD 0 = b := by cases b <;> rfl

theorem zext8_getLsbD_succ (b : Level) (k : Nat) : (zext8 b).getLsbD (k + 1) = false := by
  cases b <;> simp [zext8, BitVec.getLsbD_one]

theorem shiftIn_getLsbD_zero (r : Byte) (b : Level) : (shiftIn r b).getLsbD 0 = b := by
  rw [shiftIn, BitVec.getLsbD_or, BitVec.getLsbD_shiftLeft, zext8_getLsbD_zero]
  simp

theorem shiftIn_getLsbD_succ (r : Byte) (b : Level) {k : Nat} (hk : k < 7) :
    (shiftIn r b).getLsbD (k + 1) = r.getLsbD k := by
  have hwidth : k + 1 < 8 := by omega
  rw [shiftIn, BitVec.getLsbD_or, BitVec.getLsbD_shiftLeft, zext8_getLsbD_succ]
  simp [hwidth]

/-- BITCNT is 4 bits wide, so counting to 8 never wraps. -/
theorem takeSample_bitcnt_toNat {s : State} (hcount : s.bitcnt.toNat < nBits) :
    (takeSample s).bitcnt.toNat = s.bitcnt.toNat + 1 := by
  have hfits : s.bitcnt.toNat + (1 : BitVec 4).toNat < 2 ^ 4 := by
    simp only [nBits] at hcount
    simp only [BitVec.reduceToNat]
    omega
  rw [takeSample_bitcnt, BitVec.toNat_add_of_lt hfits]
  rfl

theorem takeSample_phase_eq {s : State} (hcount : s.bitcnt.toNat < nBits) :
    (takeSample s).phase = if s.bitcnt.toNat = 7 then .byteStop else .byteBits := by
  rw [takeSample_phase, ← takeSample_bitcnt, takeSample_bitcnt_toNat hcount]
  by_cases hlast : s.bitcnt.toNat = 7
  · rw [if_pos hlast, if_neg (by simp only [nBits]; omega)]
  · rw [if_neg hlast, if_pos (by simp only [nBits] at hcount ⊢; omega)]

theorem takeSample_frame (s : State) :
    takeSample s =
      { s with
        shreg := (takeSample s).shreg
        bitcnt := (takeSample s).bitcnt
        timer := (takeSample s).timer
        now := s.now + tBit
        phase := (takeSample s).phase } := rfl

/-- Settles O24: the answer is `takeSample s`, and each clause is what `takeSample` says of one field. -/
theorem rxbyteTakesOneSample : Obligations.RxbyteTakesOneSample := by
  unfold Obligations.RxbyteTakesOneSample
  intro s hphase hcount
  refine ⟨takeSample s, exec_rxbyte_of_byteBits hphase hcount, ?raw_level, ?shifted, ?counted, ?frame⟩
  case raw_level => rw [takeSample_shreg, shiftIn_getLsbD_zero]; rfl
  case shifted => intro k hk; rw [takeSample_shreg, shiftIn_getLsbD_succ _ _ hk]
  case counted => exact takeSample_bitcnt_toNat hcount
  case frame => rw [← takeSample_phase_eq hcount]; exact takeSample_frame s

/-! ### Eight samples -/

theorem repeatExec_succ_of_next {i : Instr} {s t : State} (n : Nat) (h : exec i s = .next t) :
    repeatExec i (n + 1) s = repeatExec i n t := by
  rw [repeatExec, h, andThen_of_next]

/-- While BITCNT leaves room for `n` more samples, RXBYTE stays in BYTE_BITS until it has taken them. -/
theorem repeatExec_rxbyte_of_byteBits {n : Nat} {s : State} (hphase : s.phase = .byteBits)
    (hroom : s.bitcnt.toNat + n ≤ nBits) : repeatExec .rxbyte n s = .next (takeSample^[n] s) := by
  induction n generalizing s with
  | zero => rfl
  | succ n ih =>
    have hcount : s.bitcnt.toNat < nBits := by omega
    rw [repeatExec_succ_of_next n (exec_rxbyte_of_byteBits hphase hcount), Function.iterate_succ_apply]
    cases n with
    | zero => rfl
    | succ m =>
      refine ih ?still_sampling ?room
      case still_sampling => rw [takeSample_phase_eq hcount, if_neg (by simp only [nBits] at hroom; omega)]
      case room => rw [takeSample_bitcnt_toNat hcount]; omega

theorem iterate_takeSample_env (n : Nat) (s : State) : (takeSample^[n] s).env = s.env := by
  induction n with
  | zero => rfl
  | succ n ih => rw [Function.iterate_succ_apply', takeSample_env, ih]

theorem iterate_takeSample_now (n : Nat) (s : State) : (takeSample^[n] s).now = s.now + n * tBit := by
  induction n with
  | zero => simp
  | succ n ih => rw [Function.iterate_succ_apply', takeSample_now, ih]; ring

theorem iterate_takeSample_bitcnt (n : Nat) (s : State) :
    (takeSample^[n] s).bitcnt = s.bitcnt + BitVec.ofNat 4 n := by
  induction n with
  | zero => simp
  | succ n ih => rw [Function.iterate_succ_apply', takeSample_bitcnt, ih, BitVec.ofNat_add, BitVec.add_assoc]; rfl

/-- The sample number `n + 1` is of the line as it is `n + 1` bit periods on (R102). -/
theorem iterate_takeSample_shreg_succ (n : Nat) (s : State) :
    (takeSample^[n + 1] s).shreg = shiftIn (takeSample^[n] s).shreg (s.env.data.level (s.now + (n + 1) * tBit)) := by
  rw [Function.iterate_succ_apply', takeSample_shreg, iterate_takeSample_env, iterate_takeSample_now, Nat.add_assoc,
    ← Nat.succ_mul]

theorem iterate_takeSample_frame (n : Nat) (s : State) :
    takeSample^[n] s =
      { s with
        shreg := (takeSample^[n] s).shreg
        bitcnt := (takeSample^[n] s).bitcnt
        timer := (takeSample^[n] s).timer
        now := (takeSample^[n] s).now
        phase := (takeSample^[n] s).phase } := by
  induction n with
  | zero => rfl
  | succ n ih => rw [Function.iterate_succ_apply', ih]; rfl

/-- Eight samples after the half bit hold the line's eight levels at the instants of R102, the first in bit 7. -/
theorem iterate_takeSample_startSampling_shreg (s : State) :
    (takeSample^[8] (startSampling s)).shreg = sampledByte s.env.data s.now := by
  simp only [iterate_takeSample_shreg_succ, Function.iterate_zero_apply, startSampling_shreg, startSampling_env,
    startSampling_now, sampledByte, tHalf, tBit, Nat.add_assoc]
  exact shiftIn_eight ..

theorem iterate_takeSample_startSampling (s : State) :
    takeSample^[8] (startSampling s) = receivedChar (sampledByte s.env.data s.now) s := by
  have hbitcnt : (takeSample^[8] (startSampling s)).bitcnt = 8 := by
    rw [iterate_takeSample_bitcnt, startSampling_bitcnt]; rfl
  have hphase : (takeSample^[8] (startSampling s)).phase = .byteStop := by
    rw [Function.iterate_succ_apply', takeSample_phase, iterate_takeSample_bitcnt, startSampling_bitcnt]; rfl
  have htimer : (takeSample^[8] (startSampling s)).timer = BitVec.ofNat 21 tBit := by
    rw [Function.iterate_succ_apply', takeSample_timer]
  have hnow : (takeSample^[8] (startSampling s)).now = s.now + (tHalf + nBits * tBit) := by
    rw [iterate_takeSample_now, startSampling_now, Nat.add_assoc]; rfl
  rw [iterate_takeSample_frame, iterate_takeSample_startSampling_shreg, hbitcnt, htimer, hnow, hphase]
  rfl

/-- RXBYTE from the start condition to the eighth sample: the half bit and the eight samples, whatever the line does in
between (R101 to R104). -/
theorem repeatExec_rxbyte_nine {s : State} (hphase : s.phase = .byteHalf) :
    repeatExec .rxbyte 9 s = .next (receivedChar (sampledByte s.env.data s.now) s) := by
  have hroom : (startSampling s).bitcnt.toNat + 8 ≤ nBits := by rw [startSampling_bitcnt]; decide
  rw [repeatExec_succ_of_next 8 (exec_rxbyte_of_byteHalf hphase),
    repeatExec_rxbyte_of_byteBits (startSampling_phase s) hroom, iterate_takeSample_startSampling]

/-- Settles O25: the nine transitions end in `receivedChar` of the eight samples, whose instant is the eighth sample's. -/
theorem rxbyteReceivesEightSamples : Obligations.RxbyteReceivesEightSamples := by
  unfold Obligations.RxbyteReceivesEightSamples
  intro s hphase
  exact ⟨_, repeatExec_rxbyte_nine hphase, receivedChar_shreg .., rfl⟩

end Sys2Proof.Machine
end

section
/-! The Frame Assembler (41_frame_assembler.md R122 to R129): the exact answer of RXFRAME in each phase that is its own, from
the waits stated by the line's levels and from the law of each shared operation. -/

namespace Sys2Proof.Machine

/-! ### The pins and the unbounded waits -/

theorem attnAsserted_iff {s : State} : attnAsserted s = true ↔ s.env.attn.level s.now = s.cfg.attnAssert := by
  simp [attnAsserted]

theorem dataIdle_iff {s : State} : dataIdle s = true ↔ s.env.data.level s.now = s.cfg.dataIdle := by
  simp [dataIdle, dataActive, sample]

theorem afterWait_of_firstInstant {w : Wave} {v : Level} {s : State} {u : Nat} (k : State → State)
    (h : firstInstant w v s.now u) : afterWait w v s k = .next (k { s with now := u }) :=
  afterWait_next.2 (.inl ⟨u, first_some.2 h, rfl⟩)

/-- A wait that hangs leaves the machine as it is, the instant included (log entry 10). -/
theorem afterWait_of_neverReads {w : Wave} {v : Level} {s : State} (k : State → State)
    (h : neverReads w v s.now) : afterWait w v s k = .next s :=
  afterWait_next.2 (.inr ⟨first_none.2 h, rfl⟩)

/-! ### RXFRAME's answer in each phase of its own -/

theorem exec_rxframe (s : State) : exec .rxframe s = framerStep s := rfl

/-- The look at ATTN is of the state entered: clearing RXLEN first does not affect it (R122, R124). -/
theorem exec_rxframe_of_idle {s : State} (hphase : s.phase = .idle) :
    exec .rxframe s =
      .next (if attnAsserted s then acknowledge { s with rxlen := 0 } else { s with rxlen := 0 }) := by
  rw [exec_rxframe, framerStep, hphase]
  rfl

theorem exec_rxframe_of_hsAck {s : State} (hphase : s.phase = .hsAck) :
    exec .rxframe s = afterWait s.env.attn (!s.cfg.attnAssert) s releaseReq := by
  simp only [exec_rxframe, framerStep, hphase]

theorem exec_rxframe_of_firstStart {s : State} (hphase : s.phase = .firstStart) :
    exec .rxframe s = afterWait s.env.data (!s.cfg.dataIdle) s beginByte := by
  simp only [exec_rxframe, framerStep, hphase]

/-- In BYTE_STOP RXFRAME stores the byte once RXBYTE has returned, which it has when DATA reads idle (log entry 9). -/
theorem exec_rxframe_of_byteStop {s : State} (hphase : s.phase = .byteStop)
    (hidle : s.env.data.level s.now = s.cfg.dataIdle) : exec .rxframe s = storeByte s := by
  simp only [exec_rxframe, framerStep, hphase, if_pos (dataIdle_iff.2 hidle)]

theorem exec_rxframe_of_gap {s : State} (hphase : s.phase = .gap) : exec .rxframe s = .next (gapStep s) := by
  simp only [exec_rxframe, framerStep, hphase]

theorem exec_rxframe_of_fault {s : State} (hphase : s.phase = .fault) : exec .rxframe s = .fault .rxOverflow := by
  simp only [exec_rxframe, framerStep, hphase]

theorem step_of_fault {s : State} (hphase : s.phase = .fault) (hvalid : s.cfg.valid = true)
    (hresets : s.env.resets = []) : step s = .fault .rxOverflow := by
  rw [step_eq_sequencer hvalid (resetDue_nil hresets)]
  simp only [sequencerStep, hphase]

/-! ### The handshake and the first start condition (R122 to R125) -/

/-- Settles O16: a wait for ATTN deasserted, then `releaseReq`. -/
theorem handshakeReleasesAtDeassertion : Obligations.HandshakeReleasesAtDeassertion := by
  unfold Obligations.HandshakeReleasesAtDeassertion
  intro s hphase
  rw [exec_rxframe_of_hsAck hphase]
  exact ⟨fun _ hfirst => afterWait_of_firstInstant releaseReq hfirst, afterWait_of_neverReads releaseReq⟩

/-- Settles O17: a wait for DATA active, then `beginByte`. -/
theorem firstStartConditionBeginsByte : Obligations.FirstStartConditionBeginsByte := by
  unfold Obligations.FirstStartConditionBeginsByte
  intro s hphase
  rw [exec_rxframe_of_firstStart hphase]
  exact ⟨fun _ hfirst => afterWait_of_firstInstant beginByte hfirst, afterWait_of_neverReads beginByte⟩

/-- Settles O14: the two branches of the look at ATTN. -/
theorem rxframeLooksOnceAtAttention : Obligations.RxframeLooksOnceAtAttention := by
  unfold Obligations.RxframeLooksOnceAtAttention
  intro s hphase
  rw [exec_rxframe_of_idle hphase]
  refine ⟨fun hdeasserted => ?not_pending, fun hasserted => ?pending⟩
  case not_pending => rw [if_neg (mt attnAsserted_iff.1 hdeasserted)]
  case pending => rw [if_pos (attnAsserted_iff.2 hasserted), acknowledge]

/-! ### The store and the overflow (R127, R128) -/

/-- RXLEN is 4 bits wide, so counting to BUF_CAP never wraps. -/
theorem rxlen_succ_toNat {s : State} (hroom : s.rxlen.toNat < bufCap) : (s.rxlen + 1).toNat = s.rxlen.toNat + 1 := by
  simp only [bufCap] at hroom
  bv_omega

/-- Settles O18: the store's law, read cell by cell. -/
theorem receivedByteIsStored : Obligations.ReceivedByteIsStored := by
  unfold Obligations.ReceivedByteIsStored
  intro s hphase hidle hroom
  rw [exec_rxframe_of_byteStop hphase hidle]
  refine ⟨_, storeByte_next.2 (.inr ⟨hroom, rfl⟩), ?stored, ?other_cells, ?counted, ?frame⟩
  case stored => exact read_write_same ..
  case other_cells => exact fun a ha => read_write_other _ _ a _ ha
  case counted => exact rxlen_succ_toNat hroom
  case frame => rfl

/-- Settles O19: the store's law when RXBUF is full, and that neither `step` nor RXFRAME leaves FAULT. -/
theorem eleventhByteIsTheOverflowFault : Obligations.EleventhByteIsTheOverflowFault := by
  unfold Obligations.EleventhByteIsTheOverflowFault
  intro s hphase hidle hfull
  refine ⟨?overflow, fun hvalid hresets => ⟨step_of_fault rfl hvalid hresets, exec_rxframe_of_fault rfl⟩⟩
  rw [exec_rxframe_of_byteStop hphase hidle]
  exact storeByte_next.2 (.inl ⟨hfull, rfl⟩)

/-! ### The gap (R129) -/

theorem gapStep_of_start {s : State} {u : Nat} (hfirst : firstInstant s.env.data (!s.cfg.dataIdle) s.now u)
    (hwindow : u < s.now + tGap) :
    gapStep s = { s with now := u, timer := BitVec.ofNat 21 (u - s.now), phase := .byteHalf } := by
  have hu : s.env.data.first (!s.cfg.dataIdle) s.now = some u := first_some.2 hfirst
  obtain ⟨v, hv, -, hgap⟩ | ⟨hlate, -⟩ := gapStep_cases s
  · obtain rfl : u = v := Option.some.inj (hu.symm.trans hv)
    exact hgap
  · exact absurd hwindow (not_lt.2 (hlate u hu))

theorem gapStep_of_silence {s : State}
    (hsilent : ∀ x, s.now ≤ x → x < s.now + tGap → s.env.data.level x = s.cfg.dataIdle) :
    gapStep s = { s with now := s.now + tGap, timer := BitVec.ofNat 21 tGap, phase := .finish } := by
  obtain ⟨u, hu, hwindow, -⟩ | ⟨-, hgap⟩ := gapStep_cases s
  · obtain ⟨hnow, hactive, -⟩ := first_some.1 hu
    exact absurd (hsilent u hnow hwindow) (level_ne_iff.2 hactive)
  · exact hgap

/-- Settles O20: the two ways the gap ends. -/
theorem gapEndsWithStartOrSilence : Obligations.GapEndsWithStartOrSilence := by
  unfold Obligations.GapEndsWithStartOrSilence
  intro s hphase
  refine ⟨fun u hfirst hwindow => ⟨gapStep s, exec_rxframe_of_gap hphase, ?start⟩,
    fun hsilent => ⟨gapStep s, exec_rxframe_of_gap hphase, ?silence⟩⟩
  case start => rw [gapStep_of_start hfirst hwindow]
  case silence => rw [gapStep_of_silence hsilent]; rfl

end Sys2Proof.Machine
end

section
/-! The Packet Validator (42_packet_validator.md R141): what VALIDATE answers is fixed by the code the validator yields, which
the laws of that code give for a buffer whose cells hold values and for one shorter than a packet. -/

namespace Sys2Proof.Machine

/-- Once the validator yields a code, VALIDATE writes it to SCAN and raises no fault (R144). -/
theorem exec_validate_of_validCode {s : State} {code : Byte} (hcode : validCode s = .ok code) :
    exec .validate s = .next { s with scan := code } := by
  change execValidate s = _
  rw [execValidate, hcode]

/-- Settles O31: the two laws of the validated code, one for cells that hold values and one for a short buffer. -/
theorem validateYieldsTheScanCode : Obligations.ValidateYieldsTheScanCode := by
  unfold Obligations.ValidateYieldsTheScanCode
  intro s
  refine ⟨fun b0 b1 b2 h0 h1 h2 => ?cells_hold, fun hshort => ?short_buffer⟩
  case cells_hold => exact exec_validate_of_validCode (validCode_eq h0 h1 h2)
  case short_buffer => exact exec_validate_of_validCode (validCode_short hshort)

end Sys2Proof.Machine
end

section
/-! The Key Decoder (43_key_decoder.md R154 to R170): the class of each code under a valid configuration; DECODE's answer,
which the class of SCAN fixes; the character of a KEY code, one equation for each rule. -/

namespace Sys2Proof.Machine

/-! ### The class of a scan code (30_encoding.md R78, 00_scope.md R9) -/

/-- The value of the first row whose code is `code`, else `d`: a chain of tests (R78) as a search. -/
def firstMatch {α : Type} (d : α) : List (Byte × α) → Byte → α
  | [], _ => d
  | (k, v) :: rows, code => if code = k then v else firstMatch d rows code

theorem firstMatch_of_notMem {α : Type} (d : α) {rows : List (Byte × α)} {code : Byte}
    (h : code ∉ rows.map Prod.fst) : firstMatch d rows code = d := by
  induction rows with
  | nil => rfl
  | cons row rows ih =>
    obtain ⟨hne, hrest⟩ : code ≠ row.1 ∧ code ∉ rows.map Prod.fst := by simpa using h
    rw [firstMatch, if_neg hne, ih hrest]

/-- When no code stands twice, the order of the rows does not matter. -/
theorem firstMatch_of_mem {α : Type} (d : α) {rows : List (Byte × α)} (hnodup : (rows.map Prod.fst).Nodup)
    {code : Byte} {v : α} (h : (code, v) ∈ rows) : firstMatch d rows code = v := by
  induction rows with
  | nil => exact absurd h List.not_mem_nil
  | cons row rows ih =>
    obtain ⟨hnew, hrest⟩ := List.nodup_cons.1 hnodup
    rcases List.mem_cons.1 h with rfl | hmem
    · rw [firstMatch, if_pos rfl]
    · have hne : code ≠ row.1 := fun heq => hnew (heq ▸ List.mem_map_of_mem hmem)
      rw [firstMatch, if_neg hne, ih hrest hmem]

/-- The rows of R78 but the last, in their order. -/
def scanRows (c : Config) : List (Byte × ScanClass) :=
  [(0x00, .nokey), (c.scShiftPress, .shiftDn), (c.scShiftRelease, .shiftUp), (c.scCtrlPress, .ctrlDn),
   (c.scCtrlRelease, .ctrlUp), (c.scAltPress, .altDn), (c.scAltRelease, .altUp), (c.scFnPress, .fnDn),
   (c.scFnRelease, .fnUp), (c.scCaps, .caps), (c.scKeyReleased, .keyup)]

theorem scanRows_codes (c : Config) : (scanRows c).map Prod.fst = 0x00 :: c.dedicated := rfl

theorem classify_eq_firstMatch (c : Config) (code : Byte) :
    classify c code = firstMatch .key (scanRows c) code := rfl

theorem classify_eq_key {c : Config} {code : Byte} (hzero : code ≠ 0x00) (hded : code ∉ c.dedicated) :
    classify c code = .key := by
  rw [classify_eq_firstMatch]
  apply firstMatch_of_notMem
  rw [scanRows_codes, List.mem_cons]
  exact not_or.2 ⟨hzero, hded⟩

theorem nodup_of_allDifferent {l : List Byte} (h : allDifferent l = true) : l.Nodup := by
  induction l with
  | nil => exact List.nodup_nil
  | cons b bs ih =>
    obtain ⟨hnew, hrest⟩ : b ∉ bs ∧ allDifferent bs = true := by simpa [allDifferent] using h
    exact List.nodup_cons.2 ⟨hnew, ih hrest⟩

/-- What 00_scope.md R9 asks of the dedicated codes: pairwise different, and none of them 0x00. -/
theorem scanRows_codes_nodup {c : Config} (hvalid : c.valid = true) : ((scanRows c).map Prod.fst).Nodup := by
  simp only [Config.valid, Bool.and_eq_true] at hvalid
  obtain ⟨⟨⟨⟨⟨hdifferent, hall⟩, -⟩, -⟩, -⟩, -⟩ := hvalid
  refine List.nodup_cons.2 ⟨fun hzero => ?not_zero, nodup_of_allDifferent hdifferent⟩
  case not_zero => simpa [dedicatedOk] using List.all_eq_true.1 hall _ hzero

/-- Under a valid configuration a code has the class of its row, whatever the order of the tests. -/
theorem classify_of_mem {c : Config} (hvalid : c.valid = true) {code : Byte} {k : ScanClass}
    (h : (code, k) ∈ scanRows c) : classify c code = k := by
  rw [classify_eq_firstMatch, firstMatch_of_mem .key (scanRows_codes_nodup hvalid) h]

/-! ### The answer of DECODE (R154 to R166) -/

/-- The update a scan-code class makes to the flags (R154 to R165). -/
def flagUpdate : ScanClass → Mods → Mods
  | .shiftDn => Mods.setShift true
  | .shiftUp => Mods.setShift false
  | .ctrlDn => Mods.setCtrl true
  | .ctrlUp => Mods.setCtrl false
  | .altDn => Mods.setAlt true
  | .altUp => Mods.setAlt false
  | .fnDn => Mods.setFn true
  | .fnUp => Mods.setFn false
  | .caps => Mods.toggleCaps
  | .nokey | .keyup | .key => id

/-- The result a scan-code class delivers: the null event but in the KEY class (R154 to R165). -/
def classResult (k : ScanClass) (c : Config) (m : Mods) (code : Byte) : Word16 :=
  if k = .key then keyResult c m code else 0x0000

theorem exec_decode_of_classify {s : State} {k : ScanClass} (hclass : classify s.cfg s.scan = k) :
    exec .decode s =
      .next { s with
        mods := flagUpdate k s.mods
        event := classResult k s.cfg s.mods s.scan
        phase := .idle } := by
  change execDecode s = _
  rw [execDecode, hclass]
  cases k <;> rfl

theorem exec_decode_of_key {s : State} (hzero : s.scan ≠ 0x00) (hded : s.scan ∉ s.cfg.dedicated) :
    exec .decode s = .next { s with event := keyResult s.cfg s.mods s.scan, phase := .idle } :=
  exec_decode_of_classify (classify_eq_key hzero hded)

/-- The answer for a code of a row of R78, under a valid configuration. -/
theorem exec_decode_of_mem {s : State} (hvalid : s.cfg.valid = true) {k : ScanClass}
    (h : (s.scan, k) ∈ scanRows s.cfg) :
    exec .decode s =
      .next { s with
        mods := flagUpdate k s.mods
        event := classResult k s.cfg s.mods s.scan
        phase := .idle } :=
  exec_decode_of_classify (classify_of_mem hvalid h)

/-! ### The character of a KEY code (R168 to R170) -/

theorem resolveChar_none (m : Mods) : resolveChar m none = 0x00 := rfl

theorem resolveChar_of_shift {m : Mods} (hshift : m.shift = true) (e : KeyEntry) :
    resolveChar m (some e) = e.shifted.getD e.unshifted := by
  rw [resolveChar, if_pos hshift]

theorem inCtrlRange_iff (ch : Byte) : inCtrlRange ch = true ↔ 97 ≤ ch.toNat ∧ ch.toNat ≤ 125 := by
  simp [inCtrlRange, ctrlLo, ctrlHi, BitVec.le_def]

/-- The control conversion (R169). -/
theorem resolveChar_of_ctrl {m : Mods} {e : KeyEntry} (hshift : m.shift = false) (hctrl : m.ctrl = true)
    (hlow : 97 ≤ e.unshifted.toNat) (hhigh : e.unshifted.toNat ≤ 125) :
    resolveChar m (some e) = e.unshifted - ctrlSub := by
  simp [resolveChar, hshift, hctrl, (inCtrlRange_iff _).2 ⟨hlow, hhigh⟩]

theorem resolveChar_of_no_ctrl {m : Mods} {e : KeyEntry} (hshift : m.shift = false)
    (hconv : ¬ (m.ctrl = true ∧ 97 ≤ e.unshifted.toNat ∧ e.unshifted.toNat ≤ 125)) :
    resolveChar m (some e) = e.unshifted := by
  rw [← inCtrlRange_iff, ← Bool.and_eq_true] at hconv
  rw [resolveChar, hshift, if_neg Bool.false_ne_true, if_neg hconv]

/-- The control conversion does not wrap: the range starts above what it subtracts (R169). -/
theorem sub_ctrlSub_toNat {ch : Byte} (hlow : 97 ≤ ch.toNat) : (ch - ctrlSub).toNat = ch.toNat - 96 := by
  have hsub : ctrlSub.toNat = 96 := rfl
  rw [BitVec.toNat_sub_of_le (by rw [BitVec.le_def, hsub]; omega), hsub]

/-! ### The result word of a KEY code (R165, R167) -/

theorem keyResult_eq_encodeResult (c : Config) (m : Mods) (code : Byte) :
    keyResult c m code = encodeResult m.fn m.alt m.ctrl m.shift (resolveChar m (c.lookup code)) :=
  packEvent_eq_encodeResult ..

theorem keyResult_char (c : Config) (m : Mods) (code : Byte) :
    (keyResult c m code).extractLsb' 0 8 = resolveChar m (c.lookup code) := by
  rw [keyResult_eq_encodeResult, encodeResult_char]

theorem keyResult_mask (c : Config) (m : Mods) (code : Byte) :
    (keyResult c m code).getLsbD 8 = m.shift ∧ (keyResult c m code).getLsbD 9 = m.ctrl ∧
    (keyResult c m code).getLsbD 10 = m.alt ∧ (keyResult c m code).getLsbD 11 = m.fn := by
  rw [keyResult_eq_encodeResult]
  exact encodeResult_mask ..

theorem keyResult_of_absent {c : Config} {code : Byte} (m : Mods) (habsent : c.lookup code = none) :
    keyResult c m code = m.mask.zeroExtend 16 <<< 8 := by
  rw [keyResult, habsent, resolveChar_none]
  simp [packEvent]

/-! ### DECODE and its pseudocode (R166) -/

/-- Two chains with the same tests agree when they agree branch by branch. -/
theorem ite_eq_apply_ite {α β : Type} (f : α → β) {p : Prop} [Decidable p] {a b : β} {x y : α}
    (hthen : a = f x) (helse : b = f y) : (if p then a else b) = f (if p then x else y) := by
  rw [hthen, helse, apply_ite f]

/-- The pseudocode's subtraction, on numbers, is the model's on bytes. -/
theorem ofNat_sub_96 {ch : Byte} (hlow : 97 ≤ ch.toNat) : BitVec.ofNat 8 (ch.toNat - 96) = ch - ctrlSub := by
  rw [← sub_ctrlSub_toNat hlow, BitVec.ofNat_toNat, BitVec.setWidth_eq]

/-- The pseudocode is the search for the class, and then the class's update and result. -/
theorem decodeFunction_eq (c : Config) (m : Mods) (code : Byte) :
    decodeFunction c m code =
      (flagUpdate (classify c code) m, classResult (classify c code) c m code) := by
  unfold decodeFunction classify
  iterate 11 refine ite_eq_apply_ite (fun k => (flagUpdate k m, classResult k c m code)) rfl ?_
  change (m, encodeResult m.fn m.alt m.ctrl m.shift _) = (m, keyResult c m code)
  rw [keyResult_eq_encodeResult]
  congr 2
  cases c.lookup code with
  | none => rfl
  | some e =>
    cases hshift : m.shift with
    | true =>
      rw [resolveChar_of_shift hshift]
      obtain ⟨_, _ | _⟩ := e <;> rfl
    | false =>
      by_cases hconv : m.ctrl = true ∧ 97 ≤ e.unshifted.toNat ∧ e.unshifted.toNat ≤ 125
      · have ⟨hctrl, hlow, hhigh⟩ := hconv
        rw [resolveChar_of_ctrl hshift hctrl hlow hhigh, ← ofNat_sub_96 hlow]
        exact if_pos hconv
      · rw [resolveChar_of_no_ctrl hshift hconv]
        exact if_neg hconv

/-- Settles O35: both are the class of SCAN with its update and result. -/
theorem decodeImplementsItsPseudocode : Obligations.DecodeImplementsItsPseudocode := by
  unfold Obligations.DecodeImplementsItsPseudocode
  intro s
  rw [decodeFunction_eq]
  exact exec_decode_of_classify rfl

/-! ### The dedicated codes (R154 to R164) -/

/-- Settles O38: the rows of the four press codes. -/
theorem pressCodesSetTheirFlag : Obligations.PressCodesSetTheirFlag := by
  unfold Obligations.PressCodesSetTheirFlag
  intro s hvalid
  refine ⟨fun hscan => ?shift, fun hscan => ?ctrl, fun hscan => ?alt, fun hscan => ?fn⟩
  case shift => exact exec_decode_of_mem (k := .shiftDn) hvalid (by simp [scanRows, hscan])
  case ctrl => exact exec_decode_of_mem (k := .ctrlDn) hvalid (by simp [scanRows, hscan])
  case alt => exact exec_decode_of_mem (k := .altDn) hvalid (by simp [scanRows, hscan])
  case fn => exact exec_decode_of_mem (k := .fnDn) hvalid (by simp [scanRows, hscan])

/-- Settles O39: the rows of the four release codes. -/
theorem releaseCodesClearTheirFlag : Obligations.ReleaseCodesClearTheirFlag := by
  unfold Obligations.ReleaseCodesClearTheirFlag
  intro s hvalid
  refine ⟨fun hscan => ?shift, fun hscan => ?ctrl, fun hscan => ?alt, fun hscan => ?fn⟩
  case shift => exact exec_decode_of_mem (k := .shiftUp) hvalid (by simp [scanRows, hscan])
  case ctrl => exact exec_decode_of_mem (k := .ctrlUp) hvalid (by simp [scanRows, hscan])
  case alt => exact exec_decode_of_mem (k := .altUp) hvalid (by simp [scanRows, hscan])
  case fn => exact exec_decode_of_mem (k := .fnUp) hvalid (by simp [scanRows, hscan])

theorem flagUpdate_toggleCaps (k : ScanClass) (m : Mods) :
    flagUpdate k m.toggleCaps = (flagUpdate k m).toggleCaps := by
  cases k <;> rfl

/-- MOD.caps is in neither the mask nor the choice of the character (R163, R174). -/
theorem classResult_toggleCaps (k : ScanClass) (c : Config) (m : Mods) (code : Byte) :
    classResult k c m.toggleCaps code = classResult k c m code := by
  have hkey : keyResult c m.toggleCaps code = keyResult c m code := by
    simp only [keyResult_eq_encodeResult]
    cases c.lookup code <;> rfl
  rw [classResult, classResult, hkey]

/-- Settles O40: the row of SC_CAPS, and that update and result of every class pass `Mods.toggleCaps` by. -/
theorem capsInvertsAndFeedsNothing : Obligations.CapsInvertsAndFeedsNothing := by
  unfold Obligations.CapsInvertsAndFeedsNothing
  intro s hvalid
  refine ⟨fun hscan => ?inverts, fun t ht => ?feeds_nothing⟩
  case inverts => exact exec_decode_of_mem (k := .caps) hvalid (by simp [scanRows, hscan])
  case feeds_nothing =>
    rw [exec_decode_of_classify rfl] at ht
    obtain rfl := Host.Outcome.next.inj ht
    change exec .decode (setMods Mods.toggleCaps s) = _
    rw [exec_decode_of_classify rfl]
    simp only [setMods, flagUpdate_toggleCaps, classResult_toggleCaps]
    rfl

/-- Settles O41: the rows of 0x00 and of the key-released code. -/
theorem nullCodesChangeNothing : Obligations.NullCodesChangeNothing := by
  unfold Obligations.NullCodesChangeNothing
  rintro s hvalid (hscan | hscan)
  · exact exec_decode_of_mem (k := .nokey) hvalid (by simp [scanRows, hscan])
  · exact exec_decode_of_mem (k := .keyup) hvalid (by simp [scanRows, hscan])

/-! ### The KEY class (R165 to R170) -/

/-- Settles O42: the fields of the result word; its character is chosen by shift and ctrl alone. -/
theorem keyReportsTheModifierMask : Obligations.KeyReportsTheModifierMask := by
  unfold Obligations.KeyReportsTheModifierMask
  intro s hzero hded
  obtain ⟨hshift, hctrl, halt, hfn⟩ := keyResult_mask s.cfg s.mods s.scan
  refine ⟨_, exec_decode_of_key hzero hded, rfl, hshift, hctrl, halt, hfn, packEvent_top .., fun a f => ?_⟩
  refine ⟨_, exec_decode_of_key hzero hded, ?same_character⟩
  case same_character =>
    simp only [keyResult_char]
    cases s.cfg.lookup s.scan <;> rfl

/-- Settles O43: the character under shift. -/
theorem keyWithShiftActive : Obligations.KeyWithShiftActive := by
  unfold Obligations.KeyWithShiftActive
  intro s e hzero hded hentry hshift
  have hchar : (keyResult s.cfg s.mods s.scan).extractLsb' 0 8 = e.shifted.getD e.unshifted := by
    rw [keyResult_char, hentry, resolveChar_of_shift hshift]
  refine ⟨_, exec_decode_of_key hzero hded, fun ch hshifted => ?shifted, fun hnone => ?fallback⟩
  case shifted => rw [hchar, hshifted, Option.getD_some]
  case fallback => rw [hchar, hnone, Option.getD_none]

/-- Settles O44: the character without shift, inside and outside the range of the control conversion. -/
theorem keyWithShiftInactive : Obligations.KeyWithShiftInactive := by
  unfold Obligations.KeyWithShiftInactive
  intro s e hzero hded hentry hshift
  obtain ⟨-, hbit, -, -⟩ := keyResult_mask s.cfg s.mods s.scan
  refine ⟨_, exec_decode_of_key hzero hded, hbit, fun ⟨hctrl, hlow, hhigh⟩ => ?converted,
    fun hconv => ?plain⟩
  case converted => rw [keyResult_char, hentry, resolveChar_of_ctrl hshift hctrl hlow hhigh, sub_ctrlSub_toNat hlow]
  case plain => rw [keyResult_char, hentry, resolveChar_of_no_ctrl hshift hconv]

/-- Settles O45: the result of a code without an entry. -/
theorem unknownCodeReturnsTheMaskAlone : Obligations.UnknownCodeReturnsTheMaskAlone := by
  unfold Obligations.UnknownCodeReturnsTheMaskAlone
  intro s hzero hded habsent
  rw [exec_decode_of_key hzero hded, keyResult_of_absent s.mods habsent]

end Sys2Proof.Machine
end

section
/-! RESET (70_reset_and_hazards.md R220, R221): when it is due, and that a step then takes it. `resetDue_some` and
`step_next` are the other directions. -/

namespace Sys2Proof.Machine

/-- The next RESET is due when no transition comes strictly before it: there is none to come (a hang, FAULT, an idle
block), or it comes at that instant or later (log entry 12). -/
theorem resetDue_of_le_nextInstant {s : State} {r : Nat} {rest : List Nat} (hresets : s.env.resets = r :: rest)
    (hfirst : ∀ u, nextInstant s = some u → r ≤ u) : resetDue s = some (max r s.now) := by
  cases hnext : nextInstant s with
  | none => simp only [resetDue, hresets, hnext]
  | some u => simp only [resetDue, hresets, hnext, if_pos (hfirst u hnext)]

theorem step_of_resetDue {s : State} {t : Nat} (hvalid : s.cfg.valid = true) (hdue : resetDue s = some t) :
    step s = .next (applyReset t s) := by
  simp only [step, machineStep, if_pos hvalid, hdue]

/-- Settles O10: such a RESET is due, so the step is `applyReset`, which writes the values of R221 whatever the phase. -/
theorem resetAtAnyInstant : Obligations.ResetAtAnyInstant := by
  unfold Obligations.ResetAtAnyInstant
  intro s r rest hvalid hresets hfirst
  have hstep : step s = .next (applyReset (max r s.now) s) :=
    step_of_resetDue hvalid (resetDue_of_le_nextInstant hresets hfirst)
  exact ⟨_, hstep, by simp [Mods.none, hresets]⟩

end Sys2Proof.Machine
end

section
/-! The decoder and the encoder (30_encoding.md): the scan-code map as the search for a class, frames and result words read
back from their symbols, and that decoding and encoding undo each other. -/

namespace Sys2Proof.Machine

/-! ### The scan-code map (R78) -/

/-- The instruction of a class: in the KEY class the two known rows of KEYTAB have instructions of their own. -/
def classInstr (code : Byte) : ScanClass → Instr
  | .nokey => .nokey
  | .shiftDn => .shiftDn
  | .shiftUp => .shiftUp
  | .ctrlDn => .ctrlDn
  | .ctrlUp => .ctrlUp
  | .altDn => .altDn
  | .altUp => .altUp
  | .fnDn => .fnDn
  | .fnUp => .fnUp
  | .caps => .caps
  | .keyup => .keyup
  | .key => if code = codeQ then .keyQ else if code = codeS then .keyS else .key code

theorem decodeScan_eq_classInstr (c : Config) (code : Byte) :
    decodeScan c code = classInstr code (classify c code) := by
  unfold decodeScan
  cases classify c code <;> rfl

@[simp] theorem decode_scanCode (c : Config) (code : Byte) :
    decode c (.scanCode code) = .ok (classInstr code (classify c code)) := by
  rw [← decodeScan_eq_classInstr, decode]

theorem decode_scanCode_of_mem {c : Config} (hvalid : c.valid = true) {code : Byte} {k : ScanClass}
    (h : (code, k) ∈ scanRows c) : decode c (.scanCode code) = .ok (classInstr code k) := by
  rw [decode_scanCode, classify_of_mem hvalid h]

/-- Settles O8: each dedicated code is in a row of its own, and every other code is in none. -/
theorem scanCodesSelectTheirClass : Obligations.ScanCodesSelectTheirClass := by
  unfold Obligations.ScanCodesSelectTheirClass
  intro c hvalid
  have row : ∀ {code : Byte} (k : ScanClass), (code, k) ∈ scanRows c →
      decode c (.scanCode code) = .ok (classInstr code k) := fun _ => decode_scanCode_of_mem hvalid
  refine ⟨row .nokey ?_, row .shiftDn ?_, row .shiftUp ?_, row .ctrlDn ?_, row .ctrlUp ?_, row .altDn ?_,
    row .altUp ?_, row .fnDn ?_, row .fnUp ?_, row .caps ?_, row .keyup ?_, fun code hzero hded => ?other⟩
  case other => rw [decode_scanCode, classify_eq_key hzero hded]; rfl
  all_goals simp [scanRows]

/-- The search ends at a row of the code, or there is none. -/
theorem firstMatch_mem_or {α : Type} (d : α) (rows : List (Byte × α)) (code : Byte) :
    (code, firstMatch d rows code) ∈ rows ∨ (firstMatch d rows code = d ∧ code ∉ rows.map Prod.fst) := by
  by_cases hmem : code ∈ rows.map Prod.fst
  · left
    induction rows with
    | nil => exact absurd hmem List.not_mem_nil
    | cons row rows ih =>
      by_cases heq : code = row.1
      · rw [firstMatch, if_pos heq, heq]
        exact List.mem_cons_self
      · rw [firstMatch, if_neg heq]
        exact List.mem_cons_of_mem _ (ih ((List.mem_cons.1 hmem).resolve_left heq))
  · exact .inr ⟨firstMatch_of_notMem d hmem, hmem⟩

/-- Under any configuration: the class of a code is that of one of its rows, or KEY when it has none. -/
theorem classify_mem_or (c : Config) (code : Byte) :
    (code, classify c code) ∈ scanRows c ∨
      (classify c code = .key ∧ code ≠ 0x00 ∧ code ∉ c.dedicated) := by
  have h := firstMatch_mem_or .key (scanRows c) code
  rwa [scanRows_codes, List.mem_cons, not_or, ← classify_eq_firstMatch] at h

/-- A row of R78 holds the word of its class and asks nothing more of it. -/
theorem encode_classInstr_of_mem {c : Config} {code : Byte} {k : ScanClass} (h : (code, k) ∈ scanRows c) :
    (classInstr code k).wellFormed c = true ∧ encode c (classInstr code k) = some (.scanCode code) := by
  simp only [scanRows, List.mem_cons, Prod.mk.injEq, List.not_mem_nil, or_false] at h
  rcases h with ⟨rfl, rfl⟩ | ⟨rfl, rfl⟩ | ⟨rfl, rfl⟩ | ⟨rfl, rfl⟩ | ⟨rfl, rfl⟩ | ⟨rfl, rfl⟩ | ⟨rfl, rfl⟩ |
    ⟨rfl, rfl⟩ | ⟨rfl, rfl⟩ | ⟨rfl, rfl⟩ | ⟨rfl, rfl⟩ <;> exact ⟨rfl, rfl⟩

theorem encode_classInstr_key {c : Config} {code : Byte} (hzero : code ≠ 0x00) (hded : code ∉ c.dedicated) :
    (classInstr code .key).wellFormed c = true ∧ encode c (classInstr code .key) = some (.scanCode code) := by
  unfold classInstr
  split_ifs with hq hs
  · exact ⟨rfl, by rw [hq]; rfl⟩
  · exact ⟨rfl, by rw [hs]; rfl⟩
  · exact ⟨by simpa [Instr.wellFormed, hded, hq, hs] using hzero, rfl⟩

/-- Every scan code stands for a well-formed instruction whose word it is, under any configuration. -/
theorem encode_classInstr_classify (c : Config) (code : Byte) :
    (classInstr code (classify c code)).wellFormed c = true ∧
      encode c (classInstr code (classify c code)) = some (.scanCode code) := by
  obtain hrow | ⟨hkey, hzero, hded⟩ := classify_mem_or c code
  · exact encode_classInstr_of_mem hrow
  · rw [hkey]
    exact encode_classInstr_key hzero hded

theorem classInstr_format (code : Byte) (k : ScanClass) : (classInstr code k).format = .scanCode := by
  cases k with
  | key => unfold classInstr; split_ifs <;> rfl
  | _ => rfl

/-- The codes of 'q' and 's' are of the KEY class under every valid configuration (00_scope.md R9). -/
theorem codeQ_codeS_notMem_dedicated {c : Config} (hvalid : c.valid = true) :
    codeQ ∉ c.dedicated ∧ codeS ∉ c.dedicated := by
  simp only [Config.valid, Bool.and_eq_true] at hvalid
  obtain ⟨⟨⟨⟨⟨-, hall⟩, -⟩, -⟩, -⟩, -⟩ := hvalid
  exact ⟨fun hq => by simpa [dedicatedOk] using List.all_eq_true.1 hall _ hq,
    fun hs => by simpa [dedicatedOk] using List.all_eq_true.1 hall _ hs⟩

/-! ### Frames and result words (R71, R75) -/

theorem decodeFrame_encodeFrame (idle : Level) (b : Byte) : decodeFrame idle (encodeFrame idle b) = .ok (.char b) := by
  have hactive : (!idle) ≠ idle := level_ne_iff.2 rfl
  rw [encodeFrame, decodeFrame, if_neg hactive, if_pos rfl, byteOfBits_getLsbD]

theorem encodeFrame_byteOfBits (idle b1 b2 b3 b4 b5 b6 b7 b8 : Level) :
    encodeFrame idle (byteOfBits b1 b2 b3 b4 b5 b6 b7 b8) = [!idle, b1, b2, b3, b4, b5, b6, b7, b8, idle] := by
  simp only [encodeFrame, byteOfBits, BitVec.getLsbD_append, BitVec.getLsbD_ofBool]
  simp

/-- A word is a character frame exactly when it is the ten symbols of a byte (log entry 28). -/
theorem decodeFrame_ok {idle : Level} {symbols : List Level} {i : Instr} (h : decodeFrame idle symbols = .ok i) :
    ∃ b, i = .char b ∧ symbols = encodeFrame idle b := by
  unfold decodeFrame at h
  split at h
  next a b1 b2 b3 b4 b5 b6 b7 b8 stop =>
    split_ifs at h with hstart hstop
    obtain rfl := Except.ok.inj h
    exact ⟨_, rfl, by rw [encodeFrame_byteOfBits, level_ne_iff.1 hstart, hstop]⟩
  next => cases h

theorem encodeResult_top (f a c h : Bool) (k : Byte) : (encodeResult f a c h k).extractLsb' 12 4 = 0 := by
  rw [← packEvent_eq_encodeResult, packEvent_top]

theorem decodeResult_encodeResult (f a c h : Bool) (k : Byte) :
    decodeResult (encodeResult f a c h k) = .ok (.event f a c h k) := by
  obtain ⟨hshift, hctrl, halt, hfn⟩ := encodeResult_mask f a c h k
  rw [decodeResult, if_pos (encodeResult_top f a c h k), hshift, hctrl, halt, hfn, encodeResult_char]

theorem getLsbD_of_top {w : Word16} (htop : w.extractLsb' 12 4 = 0) {j : Nat} (hj : j < 4) :
    w.getLsbD (12 + j) = false := by
  simpa [hj] using congrArg (BitVec.getLsbD · j) htop

/-- A word whose bits 15:12 are 0 is the packing of its fields. -/
theorem encodeResult_fields {w : Word16} (htop : w.extractLsb' 12 4 = 0) :
    encodeResult (w.getLsbD 11) (w.getLsbD 10) (w.getLsbD 9) (w.getLsbD 8) (w.extractLsb' 0 8) = w := by
  apply BitVec.eq_of_getLsbD_eq
  intro i hi
  obtain hfield | ⟨j, hj, rfl⟩ : i < 12 ∨ ∃ j, j < 4 ∧ i = 12 + j := by
    by_cases hfield : i < 12
    · exact .inl hfield
    · exact .inr ⟨i - 12, by omega, by omega⟩
  · simp only [encodeResult, BitVec.getLsbD_append, BitVec.getLsbD_ofBool, BitVec.getLsbD_extractLsb']
    interval_cases i <;> simp
  · rw [getLsbD_of_top htop hj, getLsbD_of_top (encodeResult_top ..) hj]

theorem decodeResult_ok {w : Word16} {i : Instr} (h : decodeResult w = .ok i) :
    ∃ f a c k ch, i = .event f a c k ch ∧ encodeResult f a c k ch = w := by
  unfold decodeResult at h
  split_ifs at h with htop
  obtain rfl := Except.ok.inj h
  exact ⟨_, _, _, _, _, rfl, encodeResult_fields htop⟩

/-! ### Packets (R73, R80) -/

theorem decodePacket_cons (p0 p1 code : Byte) (rest : List Byte) :
    decodePacket (p0 :: p1 :: code :: rest) =
      if bufCap < pktLen + rest.length then .error .longBurst
      else if p0 = preamble0 ∧ p1 = preamble1 then .ok (.pkt code)
      else .error .badPreamble := rfl

theorem decodePacket_ok {bytes : List Byte} {i : Instr} (h : decodePacket bytes = .ok i) :
    ∃ code rest, i = .pkt code ∧ bytes = packetBytes code ++ rest ∧ bytes.length ≤ bufCap := by
  unfold decodePacket at h
  split at h
  next p0 p1 code rest =>
    split_ifs at h with hlong hpreamble
    obtain ⟨rfl, rfl⟩ := hpreamble
    obtain rfl := Except.ok.inj h
    refine ⟨code, rest, rfl, rfl, ?fits⟩
    case fits => simp only [List.length_cons, pktLen] at hlong ⊢; omega
  next => cases h

/-! ### Decoding and encoding undo each other -/

/-- Settles O6: each format's words read back; the dedicated codes as R78 has them, and the codes of the KEY class, which
no row before it takes. -/
theorem decodeOfEncodeIsIdentity : Obligations.DecodeOfEncodeIsIdentity := by
  unfold Obligations.DecodeOfEncodeIsIdentity
  intro c i hvalid hwf
  obtain ⟨hnokey, hshiftDn, hshiftUp, hctrlDn, hctrlUp, haltDn, haltUp, hfnDn, hfnUp, hcaps, hkeyup, hkey⟩ :=
    scanCodesSelectTheirClass c hvalid
  obtain ⟨hq, hs⟩ := codeQ_codeS_notMem_dedicated hvalid
  refine ⟨fun hext => ?has_words, ?reads_back⟩
  case has_words =>
    cases i
    case rxbyte | rxframe | validate | decode => exact absurd rfl hext
    all_goals exact ⟨_, rfl⟩
  case reads_back =>
    cases i <;> rintro _ ⟨⟩
    case getkeyNb => rfl
    case getkeyB => rfl
    case char b => exact decodeFrame_encodeFrame c.dataIdle b
    case pkt => rfl
    case nokey => exact hnokey
    case shiftDn => exact hshiftDn
    case shiftUp => exact hshiftUp
    case ctrlDn => exact hctrlDn
    case ctrlUp => exact hctrlUp
    case altDn => exact haltDn
    case altUp => exact haltUp
    case fnDn => exact hfnDn
    case fnUp => exact hfnUp
    case caps => exact hcaps
    case keyup => exact hkeyup
    case key code =>
      obtain ⟨⟨⟨hzero, hded⟩, hnq⟩, hns⟩ : ((code ≠ 0x00 ∧ code ∉ c.dedicated) ∧ code ≠ codeQ) ∧ code ≠ codeS := by
        simpa [Instr.wellFormed] using hwf
      exact (hkey code hzero hded).trans (congrArg Except.ok ((if_neg hnq).trans (if_neg hns)))
    case keyQ => exact hkey codeQ (by decide) hq
    case keyS => exact hkey codeS (by decide) hs
    case event f a k h ch => exact decodeResult_encodeResult f a k h ch

/-- Settles O7: for each format, what its decoder accepts. -/
theorem decodedWordsReencode : Obligations.DecodedWordsReencode := by
  unfold Obligations.DecodedWordsReencode
  rintro c (w | symbols | bytes | code | w) i h
  case command =>
    obtain rfl := Except.ok.inj h
    refine ⟨?_, ?_, fun _ => ?_, fun _ => by simp⟩ <;> obtain rfl | rfl := BitVec.eq_zero_or_eq_one w <;> rfl
  case frame =>
    obtain ⟨b, rfl, rfl⟩ := decodeFrame_ok h
    exact ⟨rfl, rfl, fun _ => rfl, fun _ => by simp⟩
  case packet =>
    obtain ⟨code, rest, rfl, hbytes, hfits⟩ := decodePacket_ok h
    refine ⟨rfl, rfl, fun hnot => absurd rfl (hnot bytes), ?_⟩
    rintro _ ⟨⟩
    exact ⟨code, rest, rfl, hbytes, hfits⟩
  case scanCode =>
    rw [decode_scanCode] at h
    obtain rfl := Except.ok.inj h
    obtain ⟨hwf, hencode⟩ := encode_classInstr_classify c code
    exact ⟨hwf, classInstr_format code _, fun _ => hencode, fun _ => by simp⟩
  case result =>
    obtain ⟨f, a, k, s, ch, rfl, rfl⟩ := decodeResult_ok h
    exact ⟨rfl, rfl, fun _ => rfl, fun _ => by simp⟩

/-- Settles O4: fixed words, evaluated. -/
theorem encodedWordsDecodeAsTheTableSays : Obligations.EncodedWordsDecodeAsTheTableSays := by
  unfold Obligations.EncodedWordsDecodeAsTheTableSays
  exact ⟨rfl, rfl, rfl, rfl, rfl, rfl, rfl, rfl, rfl, rfl⟩

end Sys2Proof.Machine
end

section
/-! The instructions the key decoder selects (43_key_decoder.md R154 to R165): each completes with the update and the result of
its class, and DECODE does what the instruction of its scan code does. -/

namespace Sys2Proof.Machine

/-- A scan-code instruction is the completion of its class, in every state. -/
theorem exec_classInstr (code : Byte) (k : ScanClass) (s : State) :
    exec (classInstr code k) s =
      .next { s with
        mods := flagUpdate k s.mods
        event := classResult k s.cfg s.mods code
        phase := .idle } := by
  cases k with
  | key =>
    unfold classInstr
    split_ifs with hq hs
    · subst hq; rfl
    · subst hs; rfl
    · rfl
  | _ => rfl

/-- Settles O36: DECODE and the selected instruction are both the completion of the class of SCAN. -/
theorem decodeRunsTheSelectedInstruction : Obligations.DecodeRunsTheSelectedInstruction := by
  unfold Obligations.DecodeRunsTheSelectedInstruction
  intro s i hdecode
  obtain rfl := Except.ok.inj ((decode_scanCode s.cfg s.scan).symm.trans hdecode)
  rw [exec_decode_of_classify rfl, exec_classInstr]

/-- Settles O37: the eleven classes other than KEY, each by its meaning. -/
theorem scanInstructionsComplete : Obligations.ScanInstructionsComplete := by
  unfold Obligations.ScanInstructionsComplete
  exact fun _ => ⟨rfl, rfl, rfl, rfl, rfl, rfl, rfl, rfl, rfl, rfl, rfl⟩

theorem exec_event (f a c h : Bool) (k : Byte) (s : State) :
    exec (.event f a c h k) s = .next { s with event := encodeResult f a c h k, phase := .idle } := by
  rw [← packEvent_eq_encodeResult]
  rfl

theorem exec_key (code : Byte) (s : State) :
    exec (.key code) s = .next { s with event := keyResult s.cfg s.mods code, phase := .idle } := rfl

theorem exec_keyQ (s : State) : exec .keyQ s = exec (.key codeQ) s := rfl

theorem exec_keyS (s : State) : exec .keyS s = exec (.key codeS) s := rfl

/-- Settles O46: the result of the KEY class is its fields side by side, and KEY.q and KEY.s are KEY of their codes. -/
theorem keyInstructionsDeliverAnEventWord : Obligations.KeyInstructionsDeliverAnEventWord := by
  unfold Obligations.KeyInstructionsDeliverAnEventWord
  intro s code f a c h k
  have key : ∀ code, exec (.key code) s =
      .next { s with
        event := encodeResult s.mods.fn s.mods.alt s.mods.ctrl s.mods.shift (resolveChar s.mods (s.cfg.lookup code))
        phase := .idle } := fun code => by rw [exec_key, keyResult_eq_encodeResult]
  exact ⟨exec_event f a c h k s, key code, (exec_keyQ s).trans (key codeQ), (exec_keyS s).trans (key codeS)⟩

/-- The two rows of KEYTAB that every valid configuration has (10_state.md R31, 00_scope.md R9). -/
theorem lookup_codeQ_codeS {c : Config} (hvalid : c.valid = true) :
    c.lookup codeQ = some ⟨0x71, some 0x51⟩ ∧ ∃ e, c.lookup codeS = some e ∧ e.unshifted = 0x73 := by
  simp only [Config.valid, Bool.and_eq_true, decide_eq_true_eq] at hvalid
  obtain ⟨⟨⟨-, hq⟩, hs⟩, -⟩ := hvalid
  exact ⟨hq, Option.map_eq_some_iff.1 hs⟩

/-- Settles O47: the rows of 'q' and 's', with and without shift, and under the control conversion. -/
theorem knownKeysResolve : Obligations.KnownKeysResolve := by
  unfold Obligations.KnownKeysResolve
  intro s hvalid halt hfn
  obtain ⟨hq, e, hs, he⟩ := lookup_codeQ_codeS hvalid
  refine ⟨fun hshift hctrl => ?plain, fun hshift hctrl => ?shifted, fun hshift hctrl => ?control⟩
  case plain =>
    have hchar : resolveChar s.mods (s.cfg.lookup codeQ) = 0x71 := by
      rw [hq, resolveChar_of_no_ctrl hshift (by simp [hctrl])]
    rw [exec_keyQ, exec_key, keyResult_eq_encodeResult, hchar, hfn, halt, hctrl, hshift]
    rfl
  case shifted =>
    have hchar : resolveChar s.mods (s.cfg.lookup codeQ) = 0x51 := by
      rw [hq, resolveChar_of_shift hshift, Option.getD_some]
    rw [exec_keyQ, exec_key, keyResult_eq_encodeResult, hchar, hfn, halt, hctrl, hshift]
    rfl
  case control =>
    have hchar : resolveChar s.mods (s.cfg.lookup codeS) = 0x13 := by
      rw [hs, resolveChar_of_ctrl hshift hctrl (by rw [he]; decide) (by rw [he]; decide), he]
      rfl
    rw [exec_keyS, exec_key, keyResult_eq_encodeResult, hchar, hfn, halt, hctrl, hshift]
    rfl

end Sys2Proof.Machine
end

section
/-! VALIDATE and the packet format (42_packet_validator.md R141, 30_encoding.md R73): on a buffer whose cells below RXLEN hold
values, VALIDATE reads what the burst's bytes decode to. -/

namespace Sys2Proof.Machine

/-- Settles O32: the accepting branch of VALIDATE. -/
theorem packetYieldsItsScanCode : Obligations.PacketYieldsItsScanCode := by
  unfold Obligations.PacketYieldsItsScanCode
  intro s code
  refine ⟨rfl, fun hlen h0 h1 h2 => ?validate⟩
  case validate =>
    rw [exec_validate_of_validCode (validCode_eq h0 h1 h2), if_pos ⟨hlen, rfl, rfl⟩]
    rfl

/-- Settles O33: the inversion of VALIDATE. -/
theorem validateWritesScanOnly : Obligations.ValidateWritesScanOnly := by
  unfold Obligations.ValidateWritesScanOnly
  intro s t h
  obtain ⟨code, -, rfl⟩ := execValidate_next h
  rfl

theorem burstBytes_eq_map {s : State} (hwritten : ∀ i, i < s.rxlen.toNat → ∃ b, s.rxbuf.read i = some b) :
    burstBytes s = (List.range s.rxlen.toNat).map fun i => (s.rxbuf.read i).getD 0 := by
  rw [burstBytes, ← List.filterMap_eq_map]
  refine List.filterMap_congr fun i hi => ?_
  obtain ⟨b, hb⟩ := hwritten i (List.mem_range.1 hi)
  simp [hb]

/-- A burst of three bytes or more is the first three cells and what follows. -/
theorem burstBytes_eq_cons {s : State} {b0 b1 b2 : Byte}
    (hwritten : ∀ i, i < s.rxlen.toNat → ∃ b, s.rxbuf.read i = some b) (hlen : pktLen ≤ s.rxlen.toNat)
    (h0 : s.rxbuf.read 0 = some b0) (h1 : s.rxbuf.read 1 = some b1) (h2 : s.rxbuf.read 2 = some b2) :
    ∃ rest, burstBytes s = b0 :: b1 :: b2 :: rest ∧ pktLen + rest.length = s.rxlen.toNat := by
  obtain ⟨n, hn⟩ := Nat.exists_eq_add_of_le' hlen
  rw [burstBytes_eq_map hwritten, hn]
  refine ⟨(List.range n).map fun i => (s.rxbuf.read (i + 3)).getD 0, ?_, by simp [Nat.add_comm]⟩
  simp [pktLen, List.range_succ_eq_map, h0, h1, h2]

/-- Settles O34: in a short burst no cell matters; otherwise the same three cells decide, and the burst fits. -/
theorem validateDecodesTheBurst : Obligations.ValidateDecodesTheBurst := by
  unfold Obligations.ValidateDecodesTheBurst
  intro s hinv
  by_cases hlen : pktLen ≤ s.rxlen.toNat
  · simp only [pktLen] at hlen
    obtain ⟨b0, h0⟩ := hinv.written 0 (by omega)
    obtain ⟨b1, h1⟩ := hinv.written 1 (by omega)
    obtain ⟨b2, h2⟩ := hinv.written 2 (by omega)
    obtain ⟨rest, hburst, hrest⟩ := burstBytes_eq_cons hinv.written hlen h0 h1 h2
    have hfits : ¬ bufCap < pktLen + rest.length := not_lt.2 (hrest ▸ hinv.length)
    rw [hburst, decode, decodePacket_cons, if_neg hfits, exec_validate_of_validCode (validCode_eq h0 h1 h2)]
    by_cases hpreamble : b0 = preamble0 ∧ b1 = preamble1
    · rw [if_pos hpreamble, if_pos ⟨hlen, hpreamble⟩]
      refine ⟨?accepted, fun e he => nomatch he⟩
      case accepted => rintro _ ⟨⟩; rfl
    · rw [if_neg hpreamble, if_neg fun h => hpreamble h.2]
      exact ⟨fun i hi => (nomatch hi), fun _ _ => rfl⟩
  · have hshort : (burstBytes s).length < pktLen := by
      rw [burstBytes_eq_map hinv.written, List.length_map, List.length_range]
      omega
    rw [exec_validate_of_validCode (validCode_short (not_le.1 hlen))]
    refine ⟨fun i hi => ?no_packet, fun _ _ => rfl⟩
    case no_packet =>
      obtain ⟨code, rest, -, hbytes, -⟩ := decodePacket_ok hi
      simp only [hbytes, packetBytes, List.length_append, List.length_cons, pktLen] at hshort
      omega

end Sys2Proof.Machine
end

section
/-! The command GETKEY (43_key_decoder.md R150 to R153, R172): its answer in IDLE, for the two levels of ATTN. -/

namespace Sys2Proof.Machine

theorem exec_getkeyNb (s : State) : exec .getkeyNb s = issueGetkey false s := rfl

theorem exec_getkeyB (s : State) : exec .getkeyB s = issueGetkey true s := rfl

theorem issueGetkey_of_asserted {s : State} (b : Bool) (hphase : s.phase = .idle)
    (hasserted : s.env.attn.level s.now = s.cfg.attnAssert) :
    issueGetkey b s = .next (acknowledge { s with cmdBlocking := b, rxlen := 0 }) := by
  have hattn : attnAsserted { s with cmdBlocking := b, rxlen := 0 } = true := attnAsserted_iff.2 hasserted
  simp only [issueGetkey, if_pos hphase, if_pos hattn]

theorem issueGetkey_of_deasserted {s : State} (b : Bool) (hphase : s.phase = .idle)
    (hdeasserted : s.env.attn.level s.now ≠ s.cfg.attnAssert) :
    issueGetkey b s =
      .next (if b then { s with cmdBlocking := b, rxlen := 0, phase := .attnPoll }
        else complete 0x0000 { s with cmdBlocking := b, rxlen := 0 }) := by
  have hattn : ¬ attnAsserted { s with cmdBlocking := b, rxlen := 0 } = true := mt attnAsserted_iff.1 hdeasserted
  simp only [issueGetkey, if_pos hphase, if_neg hattn]

theorem issueGetkey_of_busy {s : State} (b : Bool) (hphase : s.phase ≠ .idle) :
    issueGetkey b s = .refused .getkeyWhileBusy := if_neg hphase

/-- Settles O11: the look at ATTN at the issue, for the two commands. -/
theorem getkeyIssueTransitions : Obligations.GetkeyIssueTransitions := by
  unfold Obligations.GetkeyIssueTransitions
  intro s hphase
  rw [exec_getkeyNb, exec_getkeyB]
  refine ⟨fun hdeasserted => ?not_pending, fun hasserted => ?pending⟩
  case not_pending =>
    exact ⟨issueGetkey_of_deasserted false hphase hdeasserted, issueGetkey_of_deasserted true hphase hdeasserted⟩
  case pending =>
    exact ⟨issueGetkey_of_asserted false hphase hasserted, issueGetkey_of_asserted true hphase hasserted⟩

theorem exec_rxframe_of_attnPoll {s : State} (hphase : s.phase = .attnPoll) :
    exec .rxframe s = afterWait s.env.attn s.cfg.attnAssert s acknowledge := by
  simp only [exec_rxframe, framerStep, hphase]

/-- Settles O15: a wait for ATTN asserted, then `acknowledge`. -/
theorem attentionPollAcknowledges : Obligations.AttentionPollAcknowledges := by
  unfold Obligations.AttentionPollAcknowledges
  intro s u hphase hfirst
  rw [exec_rxframe_of_attnPoll hphase]
  exact afterWait_of_firstInstant acknowledge hfirst

/-- Settles O13: both ways end in `acknowledge` at `u`, with RXLEN cleared. -/
theorem blockingCommandIsPollThenNonblocking : Obligations.BlockingCommandIsPollThenNonblocking := by
  unfold Obligations.BlockingCommandIsPollThenNonblocking
  intro s u hphase hdeasserted hfirst
  have ⟨_, hasserted, _⟩ := hfirst
  have hissue := issueGetkey_of_asserted (s := { s with now := u }) false hphase hasserted
  exact ⟨_, _, _, issueGetkey_of_deasserted true hphase hdeasserted, rfl,
    attentionPollAcknowledges _ u rfl hfirst, hissue, rfl, rfl⟩

end Sys2Proof.Machine
end

section
/-! The frames of RXBYTE and RXFRAME (40_bit_sampler.md R107, 41_frame_assembler.md R132), what TIMER holds after a timed wait,
and the reception of a character up to its stop condition (R105, 30_encoding.md R71). -/

namespace Sys2Proof.Machine

/-! ### RXBYTE -/

theorem exec_rxbyte (s : State) : exec .rxbyte s = samplerStep s := rfl

theorem exec_rxbyte_of_byteStop {s : State} (hphase : s.phase = .byteStop) :
    exec .rxbyte s = afterWait s.env.data s.cfg.dataIdle s id := by
  simp only [exec_rxbyte, samplerStep, hphase]

/-- Settles O23: the half-bit wait. -/
theorem rxbyteWaitsHalfABit : Obligations.RxbyteWaitsHalfABit := by
  unfold Obligations.RxbyteWaitsHalfABit
  exact fun s hphase => exec_rxbyte_of_byteHalf hphase

/-- Settles O26: a wait for DATA idle that does nothing more. -/
theorem rxbyteWaitsForTheStopCondition : Obligations.RxbyteWaitsForTheStopCondition := by
  unfold Obligations.RxbyteWaitsForTheStopCondition
  intro s hphase
  rw [exec_rxbyte_of_byteStop hphase]
  exact ⟨fun _ hfirst => afterWait_of_firstInstant id hfirst, afterWait_of_neverReads id⟩

theorem samplerStep_frame {s t : State} (h : samplerStep s = .next t) :
    t = { s with shreg := t.shreg, bitcnt := t.bitcnt, timer := t.timer, phase := t.phase, now := t.now } ∧
      s.now ≤ t.now := by
  obtain ⟨-, rfl⟩ | ⟨-, -, rfl⟩ | ⟨-, -, rfl⟩ | ⟨-, ⟨u, hu, rfl⟩ | ⟨-, rfl⟩⟩ := samplerStep_next h
  · exact ⟨rfl, Nat.le_add_right ..⟩
  · exact ⟨rfl, Nat.le_add_right ..⟩
  · exact ⟨rfl, le_rfl⟩
  · exact ⟨rfl, (first_some.1 hu).1⟩
  · exact ⟨rfl, le_rfl⟩

theorem afterWait_isNext (w : Wave) (v : Level) (s : State) (k : State → State) :
    ∃ t, afterWait w v s k = .next t := by
  cases hf : w.first v s.now with
  | none => exact ⟨_, afterWait_next.2 (.inr ⟨hf, rfl⟩)⟩
  | some u => exact ⟨_, afterWait_next.2 (.inl ⟨u, hf, rfl⟩)⟩

/-- Settles O27: the frame of each of its transitions, and that in its own phases it has one. -/
theorem rxbyteWritesNothingElse : Obligations.RxbyteWritesNothingElse := by
  unfold Obligations.RxbyteWritesNothingElse
  refine fun s => ⟨fun t h => samplerStep_frame h, ?own_phases⟩
  case own_phases =>
    rintro (hphase | hphase | hphase)
    · exact ⟨_, exec_rxbyte_of_byteHalf hphase⟩
    · exact ⟨_, by rw [exec_rxbyte, samplerStep, hphase]⟩
    · rw [exec_rxbyte_of_byteStop hphase]
      exact afterWait_isNext ..

/-! ### CHAR -/

theorem exec_char_of_byteHalf {s : State} (b : Byte) (hphase : s.phase = .byteHalf) :
    exec (.char b) s = afterWait s.env.data s.cfg.dataIdle (receivedChar b s) id := by
  change execChar b s = _
  simp only [execChar, hphase]

/-- Settles O28: the eighth sample, and the wait for the stop condition from there. -/
theorem charIsReceivedWhole : Obligations.CharIsReceivedWhole := by
  unfold Obligations.CharIsReceivedWhole
  intro s b hphase
  rw [exec_char_of_byteHalf b hphase]
  exact ⟨fun _ hfirst => afterWait_of_firstInstant id hfirst, fun hnever => afterWait_of_neverReads id hnever⟩

theorem andThen_assoc (o : Result) (f g : State → Result) :
    andThen (andThen o f) g = andThen o fun s => andThen (f s) g := by
  cases o <;> rfl

theorem repeatExec_succ_last (i : Instr) (n : Nat) (s : State) :
    repeatExec i (n + 1) s = andThen (repeatExec i n s) (exec i) := by
  induction n generalizing s with
  | zero => cases h : exec i s <;> simp [repeatExec, andThen, h]
  | succ n ih =>
    calc repeatExec i (n + 1 + 1) s = andThen (exec i s) (repeatExec i (n + 1)) := rfl
      _ = andThen (exec i s) fun t => andThen (repeatExec i n t) (exec i) := by rw [funext ih]
      _ = andThen (repeatExec i (n + 1) s) (exec i) := (andThen_assoc ..).symm

/-- Settles O29: nine transitions make `receivedChar` of the samples, and the tenth is the wait that ends CHAR. -/
theorem rxbyteReceivesTheCharacterOnTheLine : Obligations.RxbyteReceivesTheCharacterOnTheLine := by
  unfold Obligations.RxbyteReceivesTheCharacterOnTheLine
  intro s hphase
  rw [repeatExec_succ_last, repeatExec_rxbyte_nine hphase, andThen_of_next,
    exec_rxbyte_of_byteStop (receivedChar_phase ..), exec_char_of_byteHalf _ hphase]
  rfl

/-! ### RXFRAME -/

/-- In each phase, what its transition writes; RXBYTE's phases by the frame of RXBYTE. -/
theorem framerStep_frame {s t : State} (h : framerStep s = .next t) :
    t = { s with
      rxbuf := t.rxbuf
      rxlen := t.rxlen
      shreg := t.shreg
      bitcnt := t.bitcnt
      timer := t.timer
      req := t.req
      phase := t.phase
      now := t.now } ∧
    s.now ≤ t.now ∧ ∀ a, (a = storeIndex s ∧ s.phase = .byteStop) ∨ t.rxbuf.read a = s.rxbuf.read a := by
  obtain ⟨-, -, rfl⟩ | ⟨-, -, rfl⟩ | ⟨-, ⟨u, hu, rfl⟩ | ⟨-, rfl⟩⟩ | ⟨-, ⟨u, hu, rfl⟩ | ⟨-, rfl⟩⟩ |
    ⟨-, ⟨u, hu, rfl⟩ | ⟨-, rfl⟩⟩ | ⟨-, hbyte⟩ | ⟨hphase, -, hstore⟩ | ⟨-, rfl⟩ := framerStep_next h
  · exact ⟨rfl, le_rfl, fun _ => .inr rfl⟩
  · exact ⟨rfl, le_rfl, fun _ => .inr rfl⟩
  · exact ⟨rfl, (first_some.1 hu).1, fun _ => .inr rfl⟩
  · exact ⟨rfl, le_rfl, fun _ => .inr rfl⟩
  · exact ⟨rfl, (first_some.1 hu).1, fun _ => .inr rfl⟩
  · exact ⟨rfl, le_rfl, fun _ => .inr rfl⟩
  · exact ⟨rfl, (first_some.1 hu).1, fun _ => .inr rfl⟩
  · exact ⟨rfl, le_rfl, fun _ => .inr rfl⟩
  · obtain ⟨ht, hnow⟩ := samplerStep_frame hbyte
    rw [ht]
    exact ⟨rfl, hnow, fun _ => .inr rfl⟩
  · obtain ⟨-, rfl⟩ | ⟨-, rfl⟩ := storeByte_next.1 hstore
    · exact ⟨rfl, le_rfl, fun _ => .inr rfl⟩
    · refine ⟨rfl, le_rfl, fun a => ?cell⟩
      by_cases ha : a = storeIndex s
      · exact .inl ⟨ha, hphase⟩
      · exact .inr (read_write_other _ _ a _ ha)
  · obtain ⟨u, hu, -, hgap⟩ | ⟨-, hgap⟩ := gapStep_cases s <;> rw [hgap]
    · exact ⟨rfl, (first_some.1 hu).1, fun _ => .inr rfl⟩
    · exact ⟨rfl, Nat.le_add_right .., fun _ => .inr rfl⟩

/-- Settles O22: the frame of RXFRAME, field by field. -/
theorem rxframeWritesNothingElse : Obligations.RxframeWritesNothingElse := by
  unfold Obligations.RxframeWritesNothingElse
  intro s t h
  obtain ⟨ht, hnow, hcells⟩ := framerStep_frame h
  exact ⟨by rw [ht], by rw [ht], by rw [ht], by rw [ht], by rw [ht], by rw [ht], hnow, hcells⟩

/-! ### TIMER (10_state.md R25) -/

theorem waitFor_now_eq_timer (s : State) {d : Nat} (h : d ≤ tGap) :
    (waitFor d s).now = s.now + (waitFor d s).timer.toNat := by
  rw [waitFor_now, waitFor_timer, timer_toNat h]

/-- Settles O21: all three waits set TIMER to their length, which fits it. -/
theorem timerHoldsTheTimeMeasured : Obligations.TimerHoldsTheTimeMeasured := by
  unfold Obligations.TimerHoldsTheTimeMeasured
  intro s
  refine ⟨?rxbyte, fun hphase => ⟨gapStep s, exec_rxframe_of_gap hphase, ?gap⟩⟩
  case rxbyte =>
    rintro (hphase | ⟨hphase, hcount⟩)
    · exact ⟨_, exec_rxbyte_of_byteHalf hphase, waitFor_now_eq_timer s (by decide)⟩
    · exact ⟨_, exec_rxbyte_of_byteBits hphase hcount, waitFor_now_eq_timer s (by decide)⟩
  case gap =>
    obtain ⟨u, hu, hwindow, hgap⟩ | ⟨-, hgap⟩ := gapStep_cases s <;> rw [hgap]
    · have hle : s.now ≤ u := (first_some.1 hu).1
      simp only [timer_toNat (show u - s.now ≤ tGap by omega)]
      simp only [tGap] at hwindow
      omega
    · have htimer : (BitVec.ofNat 21 tGap).toNat = tGap := timer_toNat le_rfl
      exact ⟨congrArg (s.now + ·) htimer.symm, htimer.le⟩

end Sys2Proof.Machine
end

section
/-! What a step runs (43_key_decoder.md R151, R172): its exact answer in IDLE, in FINISH and in the phases of a command, and the
refusals of `step` (00_scope.md R9, 60_exceptions.md R199). -/

namespace Sys2Proof.Machine

/-- Settles O59: the configuration is looked at first. -/
theorem badConfigurationIsRefused : Obligations.BadConfigurationIsRefused := by
  unfold Obligations.BadConfigurationIsRefused
  intro s hbad
  simp [step, machineStep, hbad]

/-! ### IDLE -/

theorem sequencerStep_of_idle {s : State} (hphase : s.phase = .idle) : sequencerStep s = idleStep s := by
  simp only [sequencerStep, hphase]

theorem idleStep_of_late {s : State} {h : HostCommand} {rest : List HostCommand}
    (hcommands : s.env.commands = h :: rest) (hlate : h.issue < s.now) :
    idleStep s = .refused .getkeyWhileBusy := by
  simp only [idleStep, hcommands, if_pos hlate]

theorem idleStep_of_due {s : State} {h : HostCommand} {rest : List HostCommand}
    (hcommands : s.env.commands = h :: rest) (hnow : s.now ≤ h.issue) :
    idleStep s = exec (decodeCommand h.word) (acceptCommand h s) := by
  simp only [idleStep, hcommands, if_neg (not_lt.2 hnow)]

theorem acceptCommand_of_commands {s : State} {h : HostCommand} {rest : List HostCommand}
    (hcommands : s.env.commands = h :: rest) :
    acceptCommand h s = { s with now := h.issue, env := { s.env with commands := rest } } := by
  rw [acceptCommand, hcommands, List.tail_cons]

theorem decodeCommand_wellFormed (c : Config) (w : BitVec 1) : (decodeCommand w).wellFormed c = true := by
  obtain h | h := decodeCommand_eq_getkeyNb_or_getkeyB w <;> rw [h] <;> rfl

/-- Settles O1: the step in IDLE with a command that is not late. -/
theorem stepRunsIssuedCommand : Obligations.StepRunsIssuedCommand := by
  unfold Obligations.StepRunsIssuedCommand
  intro s h rest i hvalid hdue hphase hcommands hnow hdecode
  obtain rfl := Except.ok.inj ((decode_command s.cfg h.word).symm.trans hdecode)
  refine ⟨decodeCommand_wellFormed s.cfg h.word, ?runs⟩
  case runs =>
    rw [step_eq_sequencer hvalid hdue, sequencerStep_of_idle hphase, idleStep_of_due hcommands hnow,
      acceptCommand_of_commands hcommands]

/-- Settles O12: the two commands outside IDLE, and a step in IDLE with a late command. -/
theorem getkeyWhileBusyIsRefused : Obligations.GetkeyWhileBusyIsRefused := by
  unfold Obligations.GetkeyWhileBusyIsRefused
  refine fun s => ⟨fun hphase => ?busy, fun hvalid hdue hphase h rest hcommands hlate => ?late⟩
  case busy => exact ⟨issueGetkey_of_busy false hphase, issueGetkey_of_busy true hphase⟩
  case late =>
    rw [step_eq_sequencer hvalid hdue, sequencerStep_of_idle hphase, idleStep_of_late hcommands hlate]

/-! ### The phases of a command -/

theorem sequencerStep_of_rxframe {s : State}
    (hphase : s.phase = .attnPoll ∨ s.phase = .hsAck ∨ s.phase = .firstStart ∨ s.phase = .gap) :
    sequencerStep s = exec .rxframe s := by
  obtain hphase | hphase | hphase | hphase := hphase <;> simp only [sequencerStep, hphase]

theorem sequencerStep_of_rxbyte {s : State} (hphase : s.phase = .byteHalf ∨ s.phase = .byteBits) :
    sequencerStep s = exec .rxbyte s := by
  obtain hphase | hphase := hphase <;> simp only [sequencerStep, hphase]

theorem sequencerStep_of_byteStop {s : State} (hphase : s.phase = .byteStop) :
    sequencerStep s = if dataIdle s then exec .rxframe s else exec .rxbyte s := by
  simp only [sequencerStep, hphase]

/-- Settles O3: the operation of each phase, and in BYTE_STOP the look at DATA. -/
theorem stepRunsSequencerOperation : Obligations.StepRunsSequencerOperation := by
  unfold Obligations.StepRunsSequencerOperation
  intro s hvalid hdue
  rw [step_eq_sequencer hvalid hdue]
  refine ⟨sequencerStep_of_rxframe, sequencerStep_of_rxbyte, fun hphase hidle => ?returned,
    fun hphase hactive => ?waiting⟩
  case returned => rw [sequencerStep_of_byteStop hphase, if_pos (dataIdle_iff.2 hidle)]
  case waiting => rw [sequencerStep_of_byteStop hphase, if_neg (mt dataIdle_iff.1 hactive)]

/-! ### FINISH -/

theorem sequencerStep_of_finish {s : State} (hphase : s.phase = .finish) : sequencerStep s = finishStep s := by
  simp only [sequencerStep, hphase]

/-- FINISH completes the command with the class of the validated code (R151). -/
theorem finishStep_of_validCode {s : State} {code : Byte} (hcode : validCode s = .ok code) :
    finishStep s =
      .next { s with
        scan := code
        mods := flagUpdate (classify s.cfg code) s.mods
        event := classResult (classify s.cfg code) s.cfg s.mods code
        phase := .idle } := by
  rw [finishStep, exec_validate_of_validCode hcode, andThen_of_next, decodeScan_eq_classInstr, exec_classInstr]

theorem step_of_validCode {s : State} {code : Byte} (hvalid : s.cfg.valid = true) (hdue : resetDue s = none)
    (hphase : s.phase = .finish) (hcode : validCode s = .ok code) :
    step s =
      .next { s with
        scan := code
        mods := flagUpdate (classify s.cfg code) s.mods
        event := classResult (classify s.cfg code) s.cfg s.mods code
        phase := .idle } := by
  rw [step_eq_sequencer hvalid hdue, sequencerStep_of_finish hphase, finishStep_of_validCode hcode]

/-- Settles O2: VALIDATE answers, and the step goes on with the instruction of the scan code. -/
theorem stepRunsReceivedScanCode : Obligations.StepRunsReceivedScanCode := by
  unfold Obligations.StepRunsReceivedScanCode
  intro s t i hvalid hdue hphase hvalidate hdecode
  obtain rfl := Except.ok.inj ((decode_scanCode t.cfg t.scan).symm.trans hdecode)
  obtain ⟨hwf, -⟩ := encode_classInstr_classify t.cfg t.scan
  refine ⟨hwf, ?runs⟩
  case runs =>
    rw [step_eq_sequencer hvalid hdue, sequencerStep_of_finish hphase, finishStep, hvalidate, andThen_of_next,
      decodeScan_eq_classInstr]

theorem classify_zero (c : Config) : classify c 0x00 = .nokey := rfl

/-- Settles O57: in each case the validated code is 0x00, whose class is NOKEY. -/
theorem rejectedBurstIsANullEvent : Obligations.RejectedBurstIsANullEvent := by
  unfold Obligations.RejectedBurstIsANullEvent
  intro s hvalid hdue hphase hrejected
  have hcode : validCode s = .ok 0x00 := by
    obtain hshort | ⟨b, h0, hb⟩ | ⟨h0, b, h1, hb⟩ := hrejected
    · exact validCode_short hshort
    · exact validCode_bad_first h0 hb
    · exact validCode_bad_second h0 h1 hb
  rw [step_of_validCode hvalid hdue hphase hcode, classify_zero]
  rfl

/-- Settles O58: the validated code is the third byte, and its class is what the pseudocode of DECODE searches for. -/
theorem acceptedBurstIsDecoded : Obligations.AcceptedBurstIsDecoded := by
  unfold Obligations.AcceptedBurstIsDecoded
  intro s code hvalid hdue hphase hlen h0 h1 h2
  have hcode : validCode s = .ok code := (validCode_eq h0 h1 h2).trans (congrArg _ (if_pos ⟨hlen, rfl, rfl⟩))
  rw [step_of_validCode hvalid hdue hphase hcode, decodeFunction_eq]

end Sys2Proof.Machine
end

section
/-! The machine as a whole (43_key_decoder.md R172, 10_state.md R20 to R32): every transition of the sequencer as one relation, and
the invariants and frames that follow from it, case by case. -/

namespace Sys2Proof.Machine

/-! ### The transitions -/

/-- The transitions the sequencer can take from a state, each with the state it leads to: the rows of R172, the waits that
hang and the idle block (log entry 10), and RXBYTE's return in BYTE_STOP (log entry 9). -/
inductive Transition (s : State) : State → Prop where
  | idleBlock : s.phase = .idle → s.env.commands = [] → Transition s s
  | hang : s.phase = .attnPoll ∨ s.phase = .hsAck ∨ s.phase = .firstStart ∨ s.phase = .byteStop → Transition s s
  | issueAcknowledged (cmd : HostCommand) (rest : List HostCommand) (b : Bool) :
      s.phase = .idle → s.env.commands = cmd :: rest → s.now ≤ cmd.issue →
      Transition s (acknowledge { acceptCommand cmd s with cmdBlocking := b, rxlen := 0 })
  | issuePolls (cmd : HostCommand) (rest : List HostCommand) :
      s.phase = .idle → s.env.commands = cmd :: rest → s.now ≤ cmd.issue →
      Transition s { acceptCommand cmd s with cmdBlocking := true, rxlen := 0, phase := .attnPoll }
  | issueCompletes (cmd : HostCommand) (rest : List HostCommand) :
      s.phase = .idle → s.env.commands = cmd :: rest → s.now ≤ cmd.issue →
      Transition s (complete 0x0000 { acceptCommand cmd s with cmdBlocking := false, rxlen := 0 })
  | pollAcknowledged (u : Nat) : s.phase = .attnPoll → s.now ≤ u → Transition s (acknowledge { s with now := u })
  | requestReleased (u : Nat) : s.phase = .hsAck → s.now ≤ u → Transition s (releaseReq { s with now := u })
  | firstByte (u : Nat) : s.phase = .firstStart → s.now ≤ u → Transition s (beginByte { s with now := u })
  | halfBit : s.phase = .byteHalf → Transition s (startSampling s)
  | sample : s.phase = .byteBits → s.bitcnt.toNat < nBits → Transition s (takeSample s)
  | bitsCounted : s.phase = .byteBits → nBits ≤ s.bitcnt.toNat → Transition s { s with phase := .byteStop }
  | byteReturned (u : Nat) : s.phase = .byteStop → s.now ≤ u → Transition s { s with now := u }
  | stored : s.phase = .byteStop → s.rxlen.toNat < bufCap →
      Transition s { s with
        rxbuf := s.rxbuf.write (storeIndex s) s.shreg
        rxlen := s.rxlen + 1
        phase := .gap }
  | overflow : s.phase = .byteStop → s.rxlen.toNat = bufCap → Transition s { s with phase := .fault }
  | nextByte (u : Nat) (d : BitVec 21) : s.phase = .gap → s.now ≤ u →
      Transition s { s with now := u, timer := d, phase := .byteHalf }
  | silence (u : Nat) (d : BitVec 21) : s.phase = .gap → s.now ≤ u →
      Transition s { s with now := u, timer := d, phase := .finish }
  | finished (code : Byte) : s.phase = .finish → validCode s = .ok code →
      Transition s { s with
        scan := code
        mods := flagUpdate (classify s.cfg code) s.mods
        event := classResult (classify s.cfg code) s.cfg s.mods code
        phase := .idle }

theorem idleStep_transition {s t : State} (hphase : s.phase = .idle) (h : idleStep s = .next t) :
    Transition s t := by
  obtain ⟨hnone, rfl⟩ | ⟨cmd, rest, hcommands, hnow, b, hissue⟩ := idleStep_next h
  · exact .idleBlock hphase hnone
  · obtain ⟨-, ⟨-, rfl⟩ | ⟨-, rfl, rfl⟩ | ⟨-, rfl, rfl⟩⟩ := issueGetkey_next hissue
    · exact .issueAcknowledged cmd rest b hphase hcommands hnow
    · exact .issuePolls cmd rest hphase hcommands hnow
    · exact .issueCompletes cmd rest hphase hcommands hnow

theorem finishStep_transition {s t : State} (hphase : s.phase = .finish) (h : finishStep s = .next t) :
    Transition s t := by
  obtain ⟨code, -, -, hcode, -, -⟩ := finishStep_next h
  obtain rfl := Host.Outcome.next.inj ((finishStep_of_validCode hcode).symm.trans h)
  exact .finished code hphase hcode

theorem samplerStep_transition {s t : State} (h : samplerStep s = .next t) : Transition s t := by
  obtain ⟨hphase, rfl⟩ | ⟨hphase, hcount, rfl⟩ | ⟨hphase, hcount, rfl⟩ | ⟨hphase, ⟨u, hu, rfl⟩ | ⟨-, rfl⟩⟩ :=
    samplerStep_next h
  · exact .halfBit hphase
  · exact .sample hphase hcount
  · exact .bitsCounted hphase hcount
  · exact .byteReturned u hphase (first_some.1 hu).1
  · exact .hang (.inr (.inr (.inr hphase)))

theorem framerStep_transition {s t : State} (hidle : s.phase ≠ .idle) (h : framerStep s = .next t) :
    Transition s t := by
  obtain ⟨hphase, -, -⟩ | ⟨hphase, -, -⟩ | ⟨hphase, hpoll⟩ | ⟨hphase, hack⟩ | ⟨hphase, hstart⟩ | ⟨-, hbyte⟩ |
    ⟨hphase, -, hstore⟩ | ⟨hphase, rfl⟩ := framerStep_next h
  · exact absurd hphase hidle
  · exact absurd hphase hidle
  · obtain ⟨u, hu, rfl⟩ | ⟨-, rfl⟩ := hpoll
    · exact .pollAcknowledged u hphase (first_some.1 hu).1
    · exact .hang (.inl hphase)
  · obtain ⟨u, hu, rfl⟩ | ⟨-, rfl⟩ := hack
    · exact .requestReleased u hphase (first_some.1 hu).1
    · exact .hang (.inr (.inl hphase))
  · obtain ⟨u, hu, rfl⟩ | ⟨-, rfl⟩ := hstart
    · exact .firstByte u hphase (first_some.1 hu).1
    · exact .hang (.inr (.inr (.inl hphase)))
  · exact samplerStep_transition hbyte
  · obtain ⟨hfull, rfl⟩ | ⟨hroom, rfl⟩ := storeByte_next.1 hstore
    · exact .overflow hphase hfull
    · exact .stored hphase hroom
  · obtain ⟨u, hu, -, hgap⟩ | ⟨-, hgap⟩ := gapStep_cases s <;> rw [hgap]
    · exact .nextByte u _ hphase (first_some.1 hu).1
    · exact .silence _ _ hphase (Nat.le_add_right ..)

theorem sequencerStep_transition {s t : State} (h : sequencerStep s = .next t) : Transition s t := by
  obtain ⟨hphase, hidle⟩ | ⟨hphase, hfinish⟩ | ⟨-, hbyte⟩ | ⟨hphase, hframe⟩ := sequencerStep_next h
  · exact idleStep_transition hphase hidle
  · exact finishStep_transition hphase hfinish
  · exact samplerStep_transition hbyte
  · refine framerStep_transition (fun hidle => ?_) hframe
    simp [hidle] at hphase

/-- A step where no RESET is due takes a transition. -/
theorem step_transition {s t : State} (hdue : resetDue s = none) (h : step s = .next t) : Transition s t := by
  obtain ⟨-, ⟨r, hr, -⟩ | ⟨-, hseq⟩⟩ := step_next h
  · rw [hdue] at hr
    cases hr
  · exact sequencerStep_transition hseq

/-- A step is a RESET, not before the present instant, or a transition. -/
theorem step_reset_or_transition {s t : State} (h : step s = .next t) :
    (∃ r, s.now ≤ r ∧ t = applyReset r s) ∨ Transition s t := by
  obtain ⟨-, ⟨r, hr, rfl⟩ | ⟨-, hseq⟩⟩ := step_next h
  · obtain ⟨x, -, -, rfl, -⟩ := resetDue_some hr
    exact .inl ⟨_, le_max_right .., rfl⟩
  · exact .inr (sequencerStep_transition hseq)

/-! ### The invariant (R21 to R32) -/

theorem nullEvent_top : (0x0000 : Word16).extractLsb' 12 4 = 0 := by decide

theorem afterReset_invariant (c : Config) (e : Env) (t : Nat) : MachineInv (State.afterReset c e t) where
  memory := ⟨List.Pairwise.nil, fun _ h => absurd h List.not_mem_nil⟩
  length := Nat.zero_le _
  written := fun _ h => absurd h (Nat.not_lt_zero _)
  bits := Nat.zero_le _
  eventTop := nullEvent_top
  req := by simp
  phase := trivial

/-- Settles O48: the reset state is one that RESET leaves. -/
theorem resetStateSatisfiesTheInvariant : Obligations.ResetStateSatisfiesTheInvariant := by
  unfold Obligations.ResetStateSatisfiesTheInvariant
  exact afterReset_invariant ..

/-- Settles O9: the fields of the reset state. -/
theorem resetStateHasTheSpecValues : Obligations.ResetStateHasTheSpecValues := by
  unfold Obligations.ResetStateHasTheSpecValues
  exact ⟨rfl, by decide, rfl, rfl, rfl⟩

/-- Between two phases other than HS_ACK, REQ stays deasserted. -/
theorem req_iff_of_ne {s : State} (h : MachineInv s) {p : Phase} (hs : s.phase ≠ .hsAck) (hp : p ≠ .hsAck) :
    s.req = s.cfg.reqAssert ↔ p = .hsAck :=
  iff_of_false (mt h.req.1 hs) hp

theorem written_nothing {s : State} : ∀ i, i < (0 : BitVec 4).toNat → ∃ b, s.rxbuf.read i = some b :=
  fun _ h => absurd h (Nat.not_lt_zero _)

theorem written_after_store {s : State} (h : MachineInv s) (hroom : s.rxlen.toNat < bufCap) :
    ∀ i, i < (s.rxlen + 1).toNat → ∃ b, (s.rxbuf.write (storeIndex s) s.shreg).read i = some b := by
  intro i hi
  rw [rxlen_succ_toNat hroom] at hi
  rw [read_write]
  split_ifs with hcell
  · exact ⟨_, rfl⟩
  · exact h.written i (by unfold storeIndex at hcell; omega)

theorem classResult_top (k : ScanClass) (c : Config) (m : Mods) (code : Byte) :
    (classResult k c m code).extractLsb' 12 4 = 0 := by
  unfold classResult
  split_ifs
  · exact packEvent_top ..
  · exact nullEvent_top

/-- What PHASE says of BITCNT after a sample (R24). -/
theorem takeSample_phaseOk {s : State} (hcount : s.bitcnt.toNat < nBits) : phaseOk (takeSample s) := by
  have hnext := takeSample_bitcnt_toNat hcount
  have hphase := takeSample_phase_eq hcount
  simp only [nBits] at hcount
  unfold phaseOk
  split_ifs at hphase with hlast <;> simp only [hphase, nBits] <;> omega

theorem transition_invariant {s t : State} (h : MachineInv s) (ht : Transition s t) : MachineInv t := by
  have hsays := h.phase
  cases ht with
  | idleBlock | hang => exact h
  | issueAcknowledged =>
    exact { h with length := Nat.zero_le _, written := written_nothing, req := by simp, phase := rfl }
  | issuePolls _ _ hphase =>
    exact { h with
      length := Nat.zero_le _
      written := written_nothing
      req := req_iff_of_ne h (by simp [hphase]) (by simp)
      phase := ⟨rfl, rfl⟩ }
  | issueCompletes _ _ hphase =>
    exact { h with
      length := Nat.zero_le _
      written := written_nothing
      eventTop := nullEvent_top
      req := req_iff_of_ne h (by simp [hphase]) (by simp)
      phase := trivial }
  | pollAcknowledged u hphase =>
    simp only [phaseOk, hphase] at hsays
    exact { h with req := by simp, phase := hsays.1 }
  | requestReleased u hphase =>
    simp only [phaseOk, hphase] at hsays
    exact { h with req := by simp, phase := hsays }
  | firstByte u hphase => exact { h with req := req_iff_of_ne h (by simp [hphase]) (by simp), phase := trivial }
  | halfBit hphase =>
    exact { h with
      bits := Nat.zero_le _
      req := req_iff_of_ne h (by simp [hphase]) (by simp)
      phase := (by decide : 0 < nBits) }
  | sample hphase hcount =>
    have hnot : (takeSample s).phase ≠ .hsAck := by rw [takeSample_phase_eq hcount]; split_ifs <;> decide
    exact { h with
      bits := (takeSample_bitcnt_toNat hcount).trans_le hcount
      req := req_iff_of_ne h (by simp [hphase]) hnot
      phase := takeSample_phaseOk hcount }
  | bitsCounted hphase hcount =>
    exact { h with req := req_iff_of_ne h (by simp [hphase]) (by simp), phase := le_antisymm h.bits hcount }
  | byteReturned u hphase => exact { h with phase := hsays }
  | stored hphase hroom =>
    exact { h with
      memory := write_wf _ _ _ h.memory hroom
      length := (rxlen_succ_toNat hroom).trans_le hroom
      written := written_after_store h hroom
      req := req_iff_of_ne h (by simp [hphase]) (by simp)
      phase := (Nat.le_add_left ..).trans_eq (rxlen_succ_toNat hroom).symm }
  | overflow hphase hfull => exact { h with req := req_iff_of_ne h (by simp [hphase]) (by simp), phase := hfull }
  | nextByte u d hphase => exact { h with req := req_iff_of_ne h (by simp [hphase]) (by simp), phase := trivial }
  | silence u d hphase =>
    simp only [phaseOk, hphase] at hsays
    exact { h with req := req_iff_of_ne h (by simp [hphase]) (by simp), phase := hsays }
  | finished code hphase =>
    exact { h with
      eventTop := classResult_top ..
      req := req_iff_of_ne h (by simp [hphase]) (by simp)
      phase := trivial }

/-- Settles O49: RESET makes the invariant, and every transition keeps it. -/
theorem stepKeepsTheInvariant : Obligations.StepKeepsTheInvariant := by
  unfold Obligations.StepKeepsTheInvariant
  intro s t hinv h
  obtain ⟨r, -, rfl⟩ | ht := step_reset_or_transition h
  · exact afterReset_invariant ..
  · exact transition_invariant hinv ht

end Sys2Proof.Machine
end

section
/-! What follows from the transitions: the phase graph, when EVENT, the flags and RXBUF are written, that the configuration and
the lines never change, which faults there are, and the unbounded waits. -/

namespace Sys2Proof.Machine

/-! ### Frames and edges -/

/-- Settles O51: each transition is an edge, but for the waits that hang, the idle block and RXBYTE's return. -/
theorem phaseGraphHasNoOtherEdge : Obligations.PhaseGraphHasNoOtherEdge := by
  unfold Obligations.PhaseGraphHasNoOtherEdge
  intro s t hdue h
  have ht := step_transition hdue h
  refine ⟨?edge, fun hidle hnone => ?idle_block⟩
  case edge =>
    cases ht with
    | idleBlock | hang => exact .inr (.inl rfl)
    | byteReturned u hphase => exact .inr (.inr ⟨hphase, rfl⟩)
    | sample hphase hcount =>
      refine .inl ?_
      rw [hphase, takeSample_phase_eq hcount]
      split_ifs <;> rfl
    | issueAcknowledged _ _ _ hphase | issuePolls _ _ hphase | issueCompletes _ _ hphase
    | pollAcknowledged _ hphase | requestReleased _ hphase | firstByte _ hphase | halfBit hphase
    | bitsCounted hphase | stored hphase | overflow hphase | nextByte _ _ hphase | silence _ _ hphase
    | finished _ hphase => exact .inl (by rw [hphase]; rfl)
  case idle_block =>
    cases ht with
    | idleBlock | hang => rfl
    | issueAcknowledged _ _ _ _ hsome | issuePolls _ _ _ hsome | issueCompletes _ _ _ hsome =>
      rw [hnone] at hsome
      cases hsome
    | pollAcknowledged _ hphase | requestReleased _ hphase | firstByte _ hphase | halfBit hphase
    | sample hphase | bitsCounted hphase | byteReturned _ hphase | stored hphase | overflow hphase
    | nextByte _ _ hphase | silence _ _ hphase | finished _ hphase =>
      rw [hidle] at hphase
      cases hphase

/-- Settles O53: only a completion writes EVENT, that of the null event at the issue and that of FINISH. -/
theorem eventIsWrittenAtCompletionOnly : Obligations.EventIsWrittenAtCompletionOnly := by
  unfold Obligations.EventIsWrittenAtCompletionOnly
  intro s t hdue h hchanged
  cases step_transition hdue h with
  | issueCompletes _ _ hphase => exact ⟨rfl, rfl, .inr hphase⟩
  | finished _ hphase => exact ⟨rfl, rfl, .inl hphase⟩
  | _ => exact absurd rfl hchanged

/-- The update of a class is of one flag at most (R173). -/
theorem flagUpdate_one_flag (k : ScanClass) (m : Mods) :
    flagUpdate k m = m ∨ flagUpdate k m = { m with shift := (flagUpdate k m).shift } ∨
      flagUpdate k m = { m with ctrl := (flagUpdate k m).ctrl } ∨
      flagUpdate k m = { m with alt := (flagUpdate k m).alt } ∨ flagUpdate k m = { m with fn := (flagUpdate k m).fn } ∨
      flagUpdate k m = { m with caps := (flagUpdate k m).caps } := by
  cases k with
  | nokey | keyup | key => exact .inl rfl
  | shiftDn | shiftUp => exact .inr (.inl rfl)
  | ctrlDn | ctrlUp => exact .inr (.inr (.inl rfl))
  | altDn | altUp => exact .inr (.inr (.inr (.inl rfl)))
  | fnDn | fnUp => exact .inr (.inr (.inr (.inr (.inl rfl))))
  | caps => exact .inr (.inr (.inr (.inr (.inr rfl))))

/-- Settles O54: only FINISH writes flags, by the update of one class. -/
theorem atMostOneFlagChanges : Obligations.AtMostOneFlagChanges := by
  unfold Obligations.AtMostOneFlagChanges
  intro s t hdue h
  cases step_transition hdue h with
  | finished code hphase => exact ⟨fun hother => absurd hphase hother, flagUpdate_one_flag ..⟩
  | _ => exact ⟨fun _ => rfl, .inl rfl⟩

/-- Settles O55: only the store writes RXBUF, at its own index. -/
theorem bufferIsWrittenOnlyByTheStore : Obligations.BufferIsWrittenOnlyByTheStore := by
  unfold Obligations.BufferIsWrittenOnlyByTheStore
  intro s t hdue h a
  cases step_transition hdue h with
  | stored hphase =>
    by_cases ha : a = storeIndex s
    · exact .inl ⟨hphase, ha⟩
    · exact .inr (read_write_other _ _ a _ ha)
  | _ => exact .inr rfl

/-- Settles O56: RESET keeps them as every transition does. -/
theorem configurationAndLinesNeverChange : Obligations.ConfigurationAndLinesNeverChange := by
  unfold Obligations.ConfigurationAndLinesNeverChange
  intro s t h
  obtain ⟨r, hnow, rfl⟩ | ht := step_reset_or_transition h
  · exact ⟨rfl, rfl, rfl, hnow⟩
  · cases ht with
    | idleBlock | hang | bitsCounted | stored | overflow | finished => exact ⟨rfl, rfl, rfl, le_rfl⟩
    | halfBit | sample => exact ⟨rfl, rfl, rfl, Nat.le_add_right ..⟩
    | issueAcknowledged _ _ _ _ _ hnow | issuePolls _ _ _ _ hnow | issueCompletes _ _ _ _ hnow
    | pollAcknowledged _ _ hnow | requestReleased _ _ hnow | firstByte _ _ hnow | byteReturned _ _ hnow
    | nextByte _ _ _ hnow | silence _ _ _ hnow => exact ⟨rfl, rfl, rfl, hnow⟩

/-! ### Faults (60_exceptions.md R197) -/

theorem afterWait_ne_fault (w : Wave) (v : Level) (s : State) (k : State → State) (f : Fault) :
    afterWait w v s k ≠ .fault f := by
  obtain ⟨t, ht⟩ := afterWait_isNext w v s k
  rw [ht]
  exact nofun

theorem exec_decodeCommand_ne_fault (w : BitVec 1) (s : State) (f : Fault) : exec (decodeCommand w) s ≠ .fault f := by
  have hissue : ∀ b, issueGetkey b s ≠ .fault f := fun b => by
    unfold issueGetkey
    split_ifs <;> exact nofun
  obtain h | h := decodeCommand_eq_getkeyNb_or_getkeyB w <;> rw [h]
  · exact hissue false
  · exact hissue true

theorem idleStep_ne_fault (s : State) (f : Fault) : idleStep s ≠ .fault f := by
  unfold idleStep
  split
  · exact nofun
  · split_ifs
    · exact nofun
    · exact exec_decodeCommand_ne_fault _ _ f

theorem samplerStep_fault {s : State} {f : Fault} (h : samplerStep s = .fault f) : s.phase = .fault := by
  cases hphase : s.phase <;> simp only [samplerStep, hphase] at h
  case byteStop => exact absurd h (afterWait_ne_fault _ _ _ _ f)
  case fault => rfl
  all_goals cases h

/-- A store faults only beyond the buffer, where RXLEN never is (10_state.md R22). -/
theorem storeByte_ne_fault {s : State} (hlen : s.rxlen.toNat ≤ bufCap) (f : Fault) : storeByte s ≠ .fault f := by
  obtain hroom | hfull := Nat.lt_or_eq_of_le hlen
  · rw [storeByte_next.2 (.inr ⟨hroom, rfl⟩)]
    exact nofun
  · rw [storeByte_next.2 (.inl ⟨hfull, rfl⟩)]
    exact nofun

theorem framerStep_fault {s : State} (hlen : s.rxlen.toNat ≤ bufCap) {f : Fault} (h : framerStep s = .fault f) :
    s.phase = .fault := by
  cases hphase : s.phase <;> simp only [framerStep, hphase] at h
  case attnPoll | hsAck | firstStart => exact absurd h (afterWait_ne_fault _ _ _ _ f)
  case byteHalf | byteBits => exact hphase.symm.trans (samplerStep_fault h)
  case byteStop =>
    split_ifs at h
    · exact absurd h (storeByte_ne_fault hlen f)
    · exact hphase.symm.trans (samplerStep_fault h)
  case fault => rfl
  all_goals cases h

/-- The cells VALIDATE reads are below RXLEN, so they hold values (10_state.md R22). -/
theorem validCode_of_written {s : State} (hwritten : ∀ i, i < s.rxlen.toNat → ∃ b, s.rxbuf.read i = some b) :
    ∃ code, validCode s = .ok code := by
  by_cases hlen : pktLen ≤ s.rxlen.toNat
  · simp only [pktLen] at hlen
    obtain ⟨b0, h0⟩ := hwritten 0 (by omega)
    obtain ⟨b1, h1⟩ := hwritten 1 (by omega)
    obtain ⟨b2, h2⟩ := hwritten 2 (by omega)
    exact ⟨_, validCode_eq h0 h1 h2⟩
  · exact ⟨_, validCode_short (not_le.1 hlen)⟩

theorem sequencerStep_fault {s : State} (hinv : MachineInv s) {f : Fault} (h : sequencerStep s = .fault f) :
    s.phase = .fault := by
  cases hphase : s.phase <;> simp only [sequencerStep, hphase] at h
  case idle => exact absurd h (idleStep_ne_fault s f)
  case attnPoll | hsAck | firstStart | gap => exact hphase.symm.trans (framerStep_fault hinv.length h)
  case byteHalf | byteBits => exact hphase.symm.trans (samplerStep_fault h)
  case byteStop =>
    split_ifs at h
    · exact hphase.symm.trans (framerStep_fault hinv.length h)
    · exact hphase.symm.trans (samplerStep_fault h)
  case finish =>
    obtain ⟨code, hcode⟩ := validCode_of_written hinv.written
    rw [finishStep_of_validCode hcode] at h
    cases h
  case fault => rfl

theorem step_fault {s : State} {f : Fault} (h : step s = .fault f) : sequencerStep s = .fault f := by
  unfold step machineStep at h
  split at h
  · split at h
    · cases h
    · exact h
  · cases h

/-- Settles O50: every phase but FAULT answers a next state or a refusal. -/
theorem onlyOverflowFaults : Obligations.OnlyOverflowFaults := by
  unfold Obligations.OnlyOverflowFaults
  intro s f hinv h
  have hseq := step_fault h
  have hphase := sequencerStep_fault hinv hseq
  have hfault : sequencerStep s = .fault .rxOverflow := by simp only [sequencerStep, hphase]
  exact ⟨Host.Outcome.fault.inj (hseq.symm.trans hfault), hphase⟩

/-! ### The unbounded waits (60_exceptions.md R198) -/

theorem runSteps_of_fixed {s : State} (h : step s = .next s) (n : Nat) : runSteps n s = .next s := by
  induction n with
  | zero => rfl
  | succ n ih => rw [runSteps, h, andThen_of_next, ih]

theorem idleStep_of_none {s : State} (hnone : s.env.commands = []) : idleStep s = .next s := by
  simp only [idleStep, hnone]

/-- Settles O52: one step answers the same state, and so does any number of them. -/
theorem unboundedWaitsHang : Obligations.UnboundedWaitsHang := by
  unfold Obligations.UnboundedWaitsHang
  intro s hvalid hresets hwait
  refine runSteps_of_fixed ?_
  rw [step_eq_sequencer hvalid (resetDue_nil hresets)]
  obtain ⟨hphase, hnever⟩ | ⟨hphase, hnever⟩ | ⟨hphase, hnever⟩ | ⟨hphase, hnever⟩ | ⟨hphase, hnone⟩ := hwait
  · rw [sequencerStep_of_rxframe (.inl hphase), exec_rxframe_of_attnPoll hphase]
    exact afterWait_of_neverReads _ hnever
  · rw [sequencerStep_of_rxframe (.inr (.inl hphase)), exec_rxframe_of_hsAck hphase]
    exact afterWait_of_neverReads _ hnever
  · rw [sequencerStep_of_rxframe (.inr (.inr (.inl hphase))), exec_rxframe_of_firstStart hphase]
    exact afterWait_of_neverReads _ hnever
  · have hactive : ¬ dataIdle s = true := mt dataIdle_iff.1 (hnever s.now le_rfl)
    rw [sequencerStep_of_byteStop hphase, if_neg hactive, exec_rxbyte_of_byteStop hphase]
    exact afterWait_of_neverReads _ hnever
  · rw [sequencerStep_of_idle hphase, idleStep_of_none hnone]

end Sys2Proof.Machine
end

section
/-! A character on the line (30_encoding.md R71, R84): the ten symbols of a byte sent with a given bit period, what the Bit Sampler
reads of it, and the bytes of a burst one by one. -/

namespace Sys2Proof.Machine

/-! ### The level between two transitions -/

theorem levelAfter_cons_of_le {tail : Option Nat} {since i x : Nat} {cur l : Level} {rest : List (Nat × Level)}
    (h : i ≤ x) : levelAfter tail since cur ((i, l) :: rest) x = levelAfter tail i l rest x := if_pos h

theorem levelAfter_cons_of_lt {tail : Option Nat} {since i x : Nat} {cur l : Level} {rest : List (Nat × Level)}
    (h : x < i) : levelAfter tail since cur ((i, l) :: rest) x = cur := if_neg (not_le.2 h)

/-- At the instant of its last change a line has that change's level, if the next one is later. -/
theorem levelAfter_self {tail : Option Nat} {t : Nat} {cur : Level} {later : List (Nat × Level)}
    (hlater : ∀ y ∈ later.head?, t < y.1) : levelAfter tail t cur later t = cur := by
  cases later with
  | nil => exact tailAt_self ..
  | cons y later => exact levelAfter_cons_of_lt (hlater y rfl)

/-! ### One byte -/

/-- The line carries the character of `b` from `t0` on, a bit taking `p`: the start bit and the data bits for a whole bit
period each, and the stop condition, which has no time of its own (R71). -/
structure CarriesByte (w : Wave) (idle : Level) (p : Nat) (b : Byte) (t0 : Nat) : Prop where
  symbol : ∀ (k : Nat) (hk : k < 9) (x : Nat), t0 + k * p ≤ x → x < t0 + (k + 1) * p →
    w.level x = (encodeFrame idle b)[k]'(hk.trans (Nat.lt_add_one 9))
  stop : w.level (t0 + 9 * p) = idle

/-- At its first instant a character is a start condition. -/
theorem CarriesByte.start {w : Wave} {idle : Level} {p : Nat} {b : Byte} {t0 : Nat} (h : CarriesByte w idle p b t0)
    (hp : 0 < p) : w.level t0 = !idle :=
  h.symbol 0 (by decide) t0 (by omega) (by omega)

theorem levelAfter_txByte (tail : Option Nat) (since : Nat) (cur idle : Level) (p : Nat) (b : Byte) (t0 : Nat)
    (rest : List (Nat × Level)) {k : Nat} (hk : k < 9) {x : Nat} (hlow : t0 + k * p ≤ x)
    (hhigh : x < t0 + (k + 1) * p) :
    levelAfter tail since cur (txByte idle p b t0 ++ rest) x =
      (encodeFrame idle b)[k]'(hk.trans (Nat.lt_add_one 9)) := by
  interval_cases k <;>
    simp (disch := omega) only [txByte, List.cons_append, levelAfter_cons_of_le, levelAfter_cons_of_lt] <;> rfl

theorem levelAfter_txByte_stop (tail : Option Nat) (since : Nat) (cur idle : Level) {p : Nat} (b : Byte) {t0 : Nat}
    (rest : List (Nat × Level)) {x : Nat} (hstop : t0 + 9 * p ≤ x) :
    levelAfter tail since cur (txByte idle p b t0 ++ rest) x = levelAfter tail (t0 + 9 * p) idle rest x := by
  simp (disch := omega) only [txByte, List.cons_append, List.nil_append, levelAfter_cons_of_le]

/-- A byte sent from `t0` on, after transitions that are past and before transitions that are later, stands on the line. -/
theorem carriesByte_of_txByte {before idle : Level} {earlier later : List (Nat × Level)} {tail : Option Nat} {p : Nat}
    {b : Byte} {t0 : Nat} (hearlier : ∀ y ∈ earlier, y.1 ≤ t0) (hlater : ∀ y ∈ later.head?, t0 + 9 * p < y.1) :
    CarriesByte ⟨before, earlier ++ (txByte idle p b t0 ++ later), tail⟩ idle p b t0 where
  symbol k hk x hlow hhigh := by
    have hpast : ∀ y ∈ earlier, y.1 ≤ x := fun y hy => (hearlier y hy).trans ((Nat.le_add_right ..).trans hlow)
    obtain ⟨since, cur, -, hlevel⟩ :=
      levelAfter_append (tail := tail) hpast (Nat.zero_le x) before (txByte idle p b t0 ++ later)
    exact hlevel.trans (levelAfter_txByte tail since cur idle p b t0 later hk hlow hhigh)
  stop := by
    have hpast : ∀ y ∈ earlier, y.1 ≤ t0 + 9 * p := fun y hy => (hearlier y hy).trans (Nat.le_add_right ..)
    obtain ⟨since, cur, -, hlevel⟩ :=
      levelAfter_append (tail := tail) hpast (Nat.zero_le _) before (txByte idle p b t0 ++ later)
    exact hlevel.trans ((levelAfter_txByte_stop tail since cur idle b later le_rfl).trans (levelAfter_self hlater))

/-- The bounds of 70_reset_and_hazards.md R241: each of the eight sampling instants falls in its own bit. -/
theorem sampledByte_of_carriesByte {w : Wave} {idle : Level} {p : Nat} {b : Byte} {t0 : Nat}
    (h : CarriesByte w idle p b t0) (hlow : 98380 ≤ p) (hhigh : p ≤ 110676) : sampledByte w t0 = b := by
  unfold sampledByte
  rw [h.symbol 1 (by decide) (t0 + 156249) (by omega) (by omega), h.symbol 2 (by decide) (t0 + 260415) (by omega) (by omega),
    h.symbol 3 (by decide) (t0 + 364581) (by omega) (by omega), h.symbol 4 (by decide) (t0 + 468747) (by omega) (by omega),
    h.symbol 5 (by decide) (t0 + 572913) (by omega) (by omega), h.symbol 6 (by decide) (t0 + 677079) (by omega) (by omega),
    h.symbol 7 (by decide) (t0 + 781245) (by omega) (by omega), h.symbol 8 (by decide) (t0 + 885411) (by omega) (by omega)]
  exact byteOfBits_getLsbD b

/-- Settles O30: the byte stands on the line, and the eight samples read it. -/
theorem transmittedByteIsReceived : Obligations.TransmittedByteIsReceived := by
  unfold Obligations.TransmittedByteIsReceived
  intro s b p before earlier later tail hphase hlow hhigh hdata hearlier hlater
  have hcarries : CarriesByte s.env.data s.cfg.dataIdle p b s.now := by
    rw [hdata]
    exact carriesByte_of_txByte hearlier fun y hy => by have := hlater y hy; omega
  exact ⟨_, repeatExec_rxbyte_nine hphase, sampledByte_of_carriesByte hcarries hlow hhigh⟩

/-! ### A burst -/

theorem txByte_le {idle : Level} {p : Nat} {b : Byte} {t : Nat} : ∀ y ∈ txByte idle p b t, y.1 ≤ t + 10 * p := by
  intro y hy
  simp only [txByte, List.mem_cons, List.not_mem_nil, or_false] at hy
  rcases hy with rfl | rfl | rfl | rfl | rfl | rfl | rfl | rfl | rfl | rfl <;> simp only <;> omega

theorem txBytes_le {idle : Level} {p : Nat} {bytes : List Byte} {t : Nat} :
    ∀ y ∈ txBytes idle p bytes t, y.1 ≤ t + bytes.length * (10 * p) := by
  induction bytes generalizing t with
  | nil => exact fun y hy => absurd hy List.not_mem_nil
  | cons b bytes ih =>
    intro y hy
    rw [List.length_cons, Nat.succ_mul]
    obtain hfirst | hrest := List.mem_append.1 hy
    · exact (txByte_le y hfirst).trans (by omega)
    · exact (ih y hrest).trans (by omega)

theorem txBytes_append (idle : Level) (p : Nat) (sent bytes : List Byte) (t : Nat) :
    txBytes idle p (sent ++ bytes) t = txBytes idle p sent t ++ txBytes idle p bytes (t + sent.length * (10 * p)) := by
  induction sent generalizing t with
  | nil => simp [txBytes]
  | cons b sent ih =>
    have hstart : t + 10 * p + sent.length * (10 * p) = t + (b :: sent).length * (10 * p) := by
      rw [List.length_cons]
      ring
    rw [List.cons_append, txBytes, txBytes, ih, List.append_assoc, hstart]

theorem txBytes_head {idle : Level} {p : Nat} {bytes : List Byte} {t : Nat} :
    ∀ y ∈ (txBytes idle p bytes t).head?, y.1 = t := by
  cases bytes with
  | nil => simp [txBytes]
  | cons b bytes => simp [txBytes, txByte]

/-- Before a burst the line is idle. -/
theorem txWave_before {idle : Level} {bytes : List Byte} {t x : Nat} (h : x < t) : (txWave idle bytes t).level x = idle := by
  cases bytes with
  | nil => rfl
  | cons b bytes => exact levelAfter_cons_of_lt h

theorem txWave_split (idle : Level) (sent : List Byte) (b : Byte) (rest : List Byte) (t : Nat) :
    txWave idle (sent ++ b :: rest) t =
      ⟨idle, txBytes idle tBit sent t ++ (txByte idle tBit b (t + sent.length * (10 * tBit)) ++
        txBytes idle tBit rest (t + sent.length * (10 * tBit) + 10 * tBit)), none⟩ := by
  rw [txWave, txBytes_append, txBytes]

/-- Every byte of a burst stands on the line, ten bit periods after the one before it. -/
theorem txWave_carriesByte (idle : Level) (sent : List Byte) (b : Byte) (rest : List Byte) {t u : Nat}
    (hu : u = t + sent.length * (10 * tBit)) : CarriesByte (txWave idle (sent ++ b :: rest) t) idle tBit b u := by
  rw [txWave_split, ← hu]
  refine carriesByte_of_txByte (fun y hy => hu ▸ txBytes_le y hy) fun y hy => ?later
  case later =>
    rw [txBytes_head y hy]
    simp only [tBit]
    omega

/-- After a byte of a burst the line is idle until the next one, if there is one. -/
theorem txWave_after (idle : Level) (sent : List Byte) (b : Byte) (rest : List Byte) {t u x : Nat}
    (hu : u = t + sent.length * (10 * tBit)) (hlow : u + 9 * tBit ≤ x) (hhigh : rest ≠ [] → x < u + 10 * tBit) :
    (txWave idle (sent ++ b :: rest) t).level x = idle := by
  rw [txWave_split, ← hu]
  have hpast : ∀ y ∈ txBytes idle tBit sent t, y.1 ≤ x := fun y hy => (txBytes_le y hy).trans (by omega)
  obtain ⟨since, cur, -, hlevel⟩ := levelAfter_append (tail := none) hpast (Nat.zero_le x) idle _
  refine hlevel.trans ((levelAfter_txByte_stop none since cur idle b _ hlow).trans ?_)
  cases rest with
  | nil => rfl
  | cons next rest => exact levelAfter_cons_of_lt (hhigh (List.cons_ne_nil next rest))

end Sys2Proof.Machine
end

section
/-! A whole blocking command (43_key_decoder.md R150 to R152): the handshake, the bytes of the packet one by one, the silence after
them, and the completion, each stage a run of the machine to an exact state. -/

namespace Sys2Proof.Machine

/-! ### Runs -/

theorem runSteps_add (m n : Nat) (s : State) : runSteps (m + n) s = andThen (runSteps m s) (runSteps n) := by
  induction m generalizing s with
  | zero => rw [Nat.zero_add]; rfl
  | succ m ih =>
    calc runSteps (m + 1 + n) s = andThen (step s) (runSteps (m + n)) := by rw [Nat.add_right_comm]; rfl
      _ = andThen (step s) fun t => andThen (runSteps m t) (runSteps n) := by rw [funext ih]
      _ = andThen (runSteps (m + 1) s) (runSteps n) := (andThen_assoc ..).symm

/-- Some number of steps leads from one state to the other. -/
def Reaches (s t : State) : Prop := ∃ n, runSteps n s = .next t

theorem Reaches.of_step {s t : State} (h : step s = .next t) : Reaches s t :=
  ⟨1, by rw [runSteps, h]; rfl⟩

theorem Reaches.trans {s t u : State} (hst : Reaches s t) (htu : Reaches t u) : Reaches s u := by
  obtain ⟨m, hm⟩ := hst
  obtain ⟨n, hn⟩ := htu
  exact ⟨m + n, by rw [runSteps_add, hm, andThen_of_next, hn]⟩

/-- A valid configuration and no RESET to come: what makes every step a transition of the sequencer. -/
def Undisturbed (s : State) : Prop := s.cfg.valid = true ∧ s.env.resets = []

theorem Undisturbed.step_eq {s : State} (h : Undisturbed s) : step s = sequencerStep s := by
  obtain ⟨hvalid, hresets⟩ := h
  exact step_eq_sequencer hvalid (resetDue_nil hresets)

/-! ### A byte -/

/-- In the phases of the sampler the machine runs RXBYTE, transition by transition. -/
theorem runSteps_of_byteBits {n : Nat} {s : State} (h : Undisturbed s) (hphase : s.phase = .byteBits)
    (hroom : s.bitcnt.toNat + n ≤ nBits) : runSteps n s = repeatExec .rxbyte n s := by
  induction n generalizing s with
  | zero => rfl
  | succ n ih =>
    have hcount : s.bitcnt.toNat < nBits := by omega
    have hexec := exec_rxbyte_of_byteBits hphase hcount
    rw [runSteps, repeatExec, h.step_eq, sequencerStep_of_rxbyte (.inr hphase), hexec, andThen_of_next, andThen_of_next]
    cases n with
    | zero => rfl
    | succ m =>
      refine ih h ?still_sampling ?room
      case still_sampling => rw [takeSample_phase_eq hcount, if_neg (by simp only [nBits] at hroom; omega)]
      case room => rw [takeSample_bitcnt_toNat hcount]; omega

theorem reaches_receivedChar {s : State} (h : Undisturbed s) (hphase : s.phase = .byteHalf) :
    Reaches s (receivedChar (sampledByte s.env.data s.now) s) := by
  refine ⟨9, ?_⟩
  have hsampling : runSteps 8 (startSampling s) = repeatExec .rxbyte 8 (startSampling s) :=
    runSteps_of_byteBits h (startSampling_phase s) (by rw [startSampling_bitcnt]; decide)
  rw [← repeatExec_rxbyte_nine hphase, runSteps, repeatExec, h.step_eq, sequencerStep_of_rxbyte (.inl hphase),
    exec_rxbyte_of_byteHalf hphase, andThen_of_next, andThen_of_next, hsampling]

/-- From a start condition to the instant RXBYTE returns: the eighth sample, or the stop bit after it when the last bit is at
the active level (40_bit_sampler.md R105). -/
def byteTime (idle : Level) (b : Byte) : Nat := if b.getLsbD 0 = idle then 885411 else 937494

/-- RXBYTE has returned a byte: its character is received, and DATA reads idle. -/
def returnedByte (b : Byte) (s : State) : State :=
  { receivedChar b s with now := s.now + byteTime s.cfg.dataIdle b }

/-- RXFRAME has stored a byte received from a start condition at `s.now`. -/
def storedByte (b : Byte) (s : State) : State :=
  { returnedByte b s with
    rxbuf := s.rxbuf.write (storeIndex s) b
    rxlen := s.rxlen + 1
    phase := .gap }

theorem CarriesByte.idle_at_byteTime {w : Wave} {idle : Level} {b : Byte} {t0 : Nat} (h : CarriesByte w idle tBit b t0) :
    w.level (t0 + byteTime idle b) = idle := by
  unfold byteTime
  split_ifs with hlast
  · rw [h.symbol 8 (by decide) _ (by simp only [tBit]; omega) (by simp only [tBit]; omega)]
    exact hlast
  · exact h.stop

/-- RXBYTE returns at the least instant from the eighth sample on at which the line is idle. -/
theorem CarriesByte.firstInstant_idle {w : Wave} {idle : Level} {b : Byte} {t0 : Nat} (h : CarriesByte w idle tBit b t0) :
    firstInstant w idle (t0 + 885411) (t0 + byteTime idle b) := by
  refine ⟨?_, h.idle_at_byteTime, fun x hlow hhigh => ?_⟩
  · unfold byteTime
    split_ifs <;> omega
  · unfold byteTime at hhigh
    split_ifs at hhigh with hlast
    · omega
    · rw [h.symbol 8 (by decide) x (by simp only [tBit]; omega) (by simp only [tBit]; omega)]
      exact hlast

theorem reaches_returnedByte {s : State} {b : Byte} (h : Undisturbed s) (hphase : s.phase = .byteHalf)
    (hcarries : CarriesByte s.env.data s.cfg.dataIdle tBit b s.now) : Reaches s (returnedByte b s) := by
  have hreceived := reaches_receivedChar h hphase
  rw [sampledByte_of_carriesByte hcarries (by decide) (by decide)] at hreceived
  by_cases hidle : dataIdle (receivedChar b s) = true
  · have hnow : byteTime s.cfg.dataIdle b = 885411 := by
      have hlevel := dataIdle_iff.1 hidle
      have hsymbol := hcarries.symbol 8 (by decide) (s.now + 885411) (by simp only [tBit]; omega) (by simp only [tBit]; omega)
      exact if_pos (hsymbol.symm.trans hlevel)
    have hreturned : returnedByte b s = receivedChar b s := by rw [returnedByte, hnow]; rfl
    rw [hreturned]
    exact hreceived
  · have hnext : Undisturbed (receivedChar b s) := h
    refine hreceived.trans (.of_step ?_)
    rw [hnext.step_eq, sequencerStep_of_byteStop rfl, if_neg hidle, exec_rxbyte_of_byteStop rfl]
    exact afterWait_of_firstInstant id hcarries.firstInstant_idle

theorem reaches_storedByte {s : State} {b : Byte} (h : Undisturbed s) (hphase : s.phase = .byteHalf)
    (hcarries : CarriesByte s.env.data s.cfg.dataIdle tBit b s.now) (hroom : s.rxlen.toNat < bufCap) :
    Reaches s (storedByte b s) := by
  refine (reaches_returnedByte h hphase hcarries).trans (.of_step ?_)
  have hnext : Undisturbed (returnedByte b s) := h
  have hidle := hcarries.idle_at_byteTime
  rw [hnext.step_eq, sequencerStep_of_byteStop rfl, if_pos (dataIdle_iff.2 hidle), exec_rxframe_of_byteStop rfl hidle]
  exact storeByte_next.2 (.inr ⟨hroom, rfl⟩)

theorem byteTime_le (idle : Level) (b : Byte) : 885411 ≤ byteTime idle b ∧ byteTime idle b ≤ 937494 := by
  unfold byteTime
  split_ifs <;> omega

/-- From the return of RXBYTE to the end of the character the line is idle. -/
theorem CarriesByte.idle_from_byteTime {w : Wave} {idle : Level} {b : Byte} {t0 x : Nat}
    (h : CarriesByte w idle tBit b t0) (hlow : t0 + byteTime idle b ≤ x) (hhigh : x < t0 + 9 * tBit) :
    w.level x = idle := by
  unfold byteTime at hlow
  simp only [tBit] at hhigh
  split_ifs at hlow with hlast
  · rw [h.symbol 8 (by decide) x (by simp only [tBit]; omega) (by simp only [tBit]; omega)]
    exact hlast
  · omega

/-! ### The gap -/

/-- A byte stored, and the start condition of the one that follows it back to back. -/
def followedByte (b : Byte) (s : State) : State :=
  { storedByte b s with
    now := s.now + 10 * tBit
    timer := BitVec.ofNat 21 (s.now + 10 * tBit - (storedByte b s).now)
    phase := .byteHalf }

/-- A byte stored, and the silence that ends the burst. -/
def silencedByte (b : Byte) (s : State) : State :=
  { storedByte b s with
    now := s.now + byteTime s.cfg.dataIdle b + tGap
    timer := BitVec.ofNat 21 tGap
    phase := .finish }

@[simp] theorem followedByte_now (b : Byte) (s : State) : (followedByte b s).now = s.now + 10 * tBit := rfl

@[simp] theorem followedByte_rxlen (b : Byte) (s : State) : (followedByte b s).rxlen = s.rxlen + 1 := rfl

@[simp] theorem followedByte_cfg (b : Byte) (s : State) : (followedByte b s).cfg = s.cfg := rfl

@[simp] theorem silencedByte_now (b : Byte) (s : State) :
    (silencedByte b s).now = s.now + byteTime s.cfg.dataIdle b + tGap := rfl

theorem reaches_followedByte {s : State} {b : Byte} (h : Undisturbed s) (hphase : s.phase = .byteHalf)
    (hcarries : CarriesByte s.env.data s.cfg.dataIdle tBit b s.now) (hroom : s.rxlen.toNat < bufCap)
    (hidle : ∀ x, s.now + 9 * tBit ≤ x → x < s.now + 10 * tBit → s.env.data.level x = s.cfg.dataIdle)
    (hstart : s.env.data.level (s.now + 10 * tBit) = !s.cfg.dataIdle) : Reaches s (followedByte b s) := by
  have hnext : Undisturbed (storedByte b s) := h
  obtain ⟨hearly, hlate⟩ := byteTime_le s.cfg.dataIdle b
  refine (reaches_storedByte h hphase hcarries hroom).trans (.of_step ?_)
  rw [hnext.step_eq, sequencerStep_of_rxframe (.inr (.inr (.inr rfl))), exec_rxframe_of_gap rfl]
  refine congrArg _ (gapStep_of_start ⟨?later, hstart, fun x hlow hhigh => ?not_before⟩ ?window)
  case later =>
    change s.now + byteTime s.cfg.dataIdle b ≤ s.now + 10 * tBit
    simp only [tBit]
    omega
  case not_before =>
    refine level_ne_iff.2 (Eq.trans ?_ (Bool.not_not _).symm)
    obtain hchar | hstop := lt_or_ge x (s.now + 9 * tBit)
    · exact hcarries.idle_from_byteTime hlow hchar
    · exact hidle x hstop hhigh
  case window =>
    change s.now + 10 * tBit < s.now + byteTime s.cfg.dataIdle b + tGap
    simp only [tBit, tGap]
    omega

theorem reaches_silencedByte {s : State} {b : Byte} (h : Undisturbed s) (hphase : s.phase = .byteHalf)
    (hcarries : CarriesByte s.env.data s.cfg.dataIdle tBit b s.now) (hroom : s.rxlen.toNat < bufCap)
    (hidle : ∀ x, s.now + 9 * tBit ≤ x → s.env.data.level x = s.cfg.dataIdle) :
    Reaches s (silencedByte b s) := by
  refine (reaches_storedByte h hphase hcarries hroom).trans (.of_step ?_)
  have hnext : Undisturbed (storedByte b s) := h
  rw [hnext.step_eq, sequencerStep_of_rxframe (.inr (.inr (.inr rfl))), exec_rxframe_of_gap rfl]
  refine congrArg _ (gapStep_of_silence fun x hlow _ => ?silent)
  case silent =>
    obtain hchar | hstop := lt_or_ge x (s.now + 9 * tBit)
    · exact hcarries.idle_from_byteTime hlow hchar
    · exact hidle x hstop

/-! ### The packet -/

/-- The state in FINISH after a packet whose first start condition is at `s.now`. -/
def receivedPacket (code : Byte) (s : State) : State :=
  silencedByte code (followedByte preamble1 (followedByte preamble0 s))

theorem reaches_receivedPacket {s : State} {code : Byte} (h : Undisturbed s) (hphase : s.phase = .byteHalf)
    (hlen : s.rxlen = 0) (hdata : s.env.data = txWave s.cfg.dataIdle (packetBytes code) s.now) :
    Reaches s (receivedPacket code s) := by
  have h0 : s.now = s.now + ([] : List Byte).length * (10 * tBit) := by simp
  have h1 : s.now + 10 * tBit = s.now + [preamble0].length * (10 * tBit) := by simp
  have h2 : s.now + 10 * tBit + 10 * tBit = s.now + [preamble0, preamble1].length * (10 * tBit) := by
    simp only [List.length_cons, List.length_nil]
    omega
  have hlevel : ∀ x, s.env.data.level x = (txWave s.cfg.dataIdle (packetBytes code) s.now).level x := fun x => by rw [hdata]
  have hfirst : CarriesByte s.env.data s.cfg.dataIdle tBit preamble0 s.now :=
    hdata ▸ txWave_carriesByte s.cfg.dataIdle [] preamble0 [preamble1, code] h0
  have hsecond : CarriesByte s.env.data s.cfg.dataIdle tBit preamble1 (s.now + 10 * tBit) :=
    hdata ▸ txWave_carriesByte s.cfg.dataIdle [preamble0] preamble1 [code] h1
  have hthird : CarriesByte s.env.data s.cfg.dataIdle tBit code (s.now + 10 * tBit + 10 * tBit) :=
    hdata ▸ txWave_carriesByte s.cfg.dataIdle [preamble0, preamble1] code [] h2
  have hstored0 : Reaches s (followedByte preamble0 s) := by
    refine reaches_followedByte h hphase hfirst (by rw [hlen]; decide) (fun x hlow hhigh => ?_) (hsecond.start (by decide))
    exact (hlevel x).trans (txWave_after s.cfg.dataIdle [] preamble0 [preamble1, code] h0 hlow fun _ => hhigh)
  have hstored1 : Reaches (followedByte preamble0 s) (followedByte preamble1 (followedByte preamble0 s)) := by
    have hroom : (followedByte preamble0 s).rxlen.toNat < bufCap := by rw [followedByte_rxlen, hlen]; decide
    refine reaches_followedByte h rfl hsecond hroom (fun x hlow hhigh => ?_) (hthird.start (by decide))
    exact (hlevel x).trans (txWave_after s.cfg.dataIdle [preamble0] preamble1 [code] h1 hlow fun _ => hhigh)
  have hstored2 : Reaches (followedByte preamble1 (followedByte preamble0 s)) (receivedPacket code s) := by
    have hroom : (followedByte preamble1 (followedByte preamble0 s)).rxlen.toNat < bufCap := by
      rw [followedByte_rxlen, followedByte_rxlen, hlen]; decide
    refine reaches_silencedByte h rfl hthird hroom fun x hlow => ?_
    exact (hlevel x).trans (txWave_after s.cfg.dataIdle [preamble0, preamble1] code [] h2 hlow fun hne => absurd rfl hne)
  exact (hstored0.trans hstored1).trans hstored2

/-- What the packet leaves in RXBUF and RXLEN, received from RXLEN 0. -/
theorem receivedPacket_buffer {s : State} (code : Byte) (hlen : s.rxlen = 0) :
    (receivedPacket code s).rxlen = 3 ∧
      (receivedPacket code s).rxbuf = ((s.rxbuf.write 0 preamble0).write 1 preamble1).write 2 code := by
  have hbuf : (receivedPacket code s).rxbuf =
      ((s.rxbuf.write s.rxlen.toNat preamble0).write (s.rxlen + 1).toNat preamble1).write (s.rxlen + 1 + 1).toNat code := rfl
  have hcount : (receivedPacket code s).rxlen = s.rxlen + 1 + 1 + 1 := rfl
  rw [hbuf, hcount, hlen]
  exact ⟨rfl, rfl⟩

theorem receivedPacket_cells {s : State} (code : Byte) (hlen : s.rxlen = 0) :
    (receivedPacket code s).rxbuf.read 0 = some preamble0 ∧ (receivedPacket code s).rxbuf.read 1 = some preamble1 ∧
      (receivedPacket code s).rxbuf.read 2 = some code := by
  obtain ⟨-, hbuf⟩ := receivedPacket_buffer code hlen
  rw [hbuf]
  simp [read_write]

theorem receivedPacket_now (code : Byte) (s : State) :
    (receivedPacket code s).now = s.now + 2 * 1041660 + byteTime s.cfg.dataIdle code + 2000000 := by
  have hbit : tBit = 104166 := rfl
  have hgap : tGap = 2000000 := rfl
  rw [receivedPacket, silencedByte_now, followedByte_cfg, followedByte_cfg, followedByte_now, followedByte_now]
  omega

/-! ### The handshake -/

/-- A blocking command taken from the queue at `t`, with nothing pending. -/
def polling (rest : List HostCommand) (t : Nat) (s : State) : State :=
  { s with now := t, cmdBlocking := true, rxlen := 0, phase := .attnPoll, env := { s.env with commands := rest } }

/-- The first start condition of a command taken from the queue: ATTN acknowledged and REQ deasserted again. -/
def handshaken (rest : List HostCommand) (t : Nat) (s : State) : State :=
  { s with
    now := t
    cmdBlocking := true
    rxlen := 0
    req := !s.cfg.reqAssert
    phase := .byteHalf
    env := { s.env with commands := rest } }

theorem step_of_attnPoll {s : State} {u : Nat} (h : Undisturbed s) (hphase : s.phase = .attnPoll)
    (hfirst : firstInstant s.env.attn s.cfg.attnAssert s.now u) : step s = .next (acknowledge { s with now := u }) := by
  rw [h.step_eq, sequencerStep_of_rxframe (.inl hphase), exec_rxframe_of_attnPoll hphase]
  exact afterWait_of_firstInstant acknowledge hfirst

theorem step_of_hsAck {s : State} {u : Nat} (h : Undisturbed s) (hphase : s.phase = .hsAck)
    (hfirst : firstInstant s.env.attn (!s.cfg.attnAssert) s.now u) : step s = .next (releaseReq { s with now := u }) := by
  rw [h.step_eq, sequencerStep_of_rxframe (.inr (.inl hphase)), exec_rxframe_of_hsAck hphase]
  exact afterWait_of_firstInstant releaseReq hfirst

theorem step_of_firstStart {s : State} {u : Nat} (h : Undisturbed s) (hphase : s.phase = .firstStart)
    (hfirst : firstInstant s.env.data (!s.cfg.dataIdle) s.now u) : step s = .next (beginByte { s with now := u }) := by
  rw [h.step_eq, sequencerStep_of_rxframe (.inr (.inr (.inl hphase))), exec_rxframe_of_firstStart hphase]
  exact afterWait_of_firstInstant beginByte hfirst

/-- A blocking command issued at `t0`, attention asserted at `t1` and withdrawn at `t2`, the first start condition at
`t3`. -/
theorem reaches_handshaken {s : State} {rest : List HostCommand} {t0 t1 t2 t3 : Nat} (h : Undisturbed s)
    (hphase : s.phase = .idle) (hcommands : s.env.commands = ⟨t0, 1⟩ :: rest) (hnow : s.now ≤ t0)
    (hquiet : s.env.attn.level t0 ≠ s.cfg.attnAssert)
    (hattention : firstInstant s.env.attn s.cfg.attnAssert t0 t1)
    (hwithdrawn : firstInstant s.env.attn (!s.cfg.attnAssert) t1 t2)
    (hstart : firstInstant s.env.data (!s.cfg.dataIdle) t2 t3) : Reaches s (handshaken rest t3 s) := by
  have hissue : step s = .next (polling rest t0 s) := by
    rw [h.step_eq, sequencerStep_of_idle hphase, idleStep_of_due hcommands hnow, acceptCommand_of_commands hcommands]
    exact issueGetkey_of_deasserted true hphase hquiet
  have hacknowledged := step_of_attnPoll (s := polling rest t0 s) h rfl hattention
  have hreleased := step_of_hsAck (s := acknowledge { polling rest t0 s with now := t1 }) h rfl hwithdrawn
  have hbegun := step_of_firstStart (s := releaseReq { acknowledge { polling rest t0 s with now := t1 } with now := t2 })
    h rfl hstart
  exact (((Reaches.of_step hissue).trans (.of_step hacknowledged)).trans (.of_step hreleased)).trans (.of_step hbegun)

/-- The three waits of the handshake on a line that asserts from `t1` until `t2`, whatever it does afterwards. -/
theorem attention_instants {v : Level} {t0 t1 t2 : Nat} {tail : Option Nat} (h01 : t0 < t1) (h12 : t1 < t2) :
    (Wave.mk (!v) [(t1, v), (t2, !v)] tail).level t0 ≠ v ∧
      firstInstant ⟨!v, [(t1, v), (t2, !v)], tail⟩ v t0 t1 ∧
      firstInstant ⟨!v, [(t1, v), (t2, !v)], tail⟩ (!v) t1 t2 := by
  have before : ∀ x, x < t1 → (Wave.mk (!v) [(t1, v), (t2, !v)] tail).level x = !v :=
    fun x hx => levelAfter_cons_of_lt hx
  have during : ∀ x, t1 ≤ x → x < t2 → (Wave.mk (!v) [(t1, v), (t2, !v)] tail).level x = v :=
    fun x hlow hhigh => (levelAfter_cons_of_le hlow).trans (levelAfter_cons_of_lt hhigh)
  have after : (Wave.mk (!v) [(t1, v), (t2, !v)] tail).level t2 = !v :=
    (levelAfter_cons_of_le h12.le).trans ((levelAfter_cons_of_le le_rfl).trans (tailAt_self ..))
  refine ⟨level_ne_iff.2 (before t0 h01), ⟨h01.le, during t1 le_rfl h12, fun x _ hx => level_ne_iff.2 (before x hx)⟩,
    ⟨h12.le, after, fun x hlow hhigh => ?_⟩⟩
  rw [during x hlow hhigh]
  exact level_ne_iff.2 (Bool.not_not v).symm

/-- The first start condition of a burst is at its first instant. -/
theorem txWave_firstInstant (idle : Level) (b : Byte) (rest : List Byte) {t u : Nat} (h : u ≤ t) :
    firstInstant (txWave idle (b :: rest) t) (!idle) u t := by
  have hcarries : CarriesByte (txWave idle (b :: rest) t) idle tBit b t :=
    txWave_carriesByte idle [] b rest (by simp)
  refine ⟨h, hcarries.start (by decide), fun x _ hx => ?_⟩
  rw [txWave_before hx]
  exact level_ne_iff.2 (Bool.not_not idle).symm

/-! ### The command -/

/-- Settles O60: the handshake, the packet and the completion, one after the other. -/
theorem blockingCommandReturnsTheDecodedKey : Obligations.BlockingCommandReturnsTheDecodedKey := by
  unfold Obligations.BlockingCommandReturnsTheDecodedKey
  intro s rest code t0 t1 t2 t3 tail hvalid hphase hresets hcommands hnow h01 h12 h23 hattn hdata
  have h : Undisturbed s := ⟨hvalid, hresets⟩
  obtain ⟨hquiet, hattention, hwithdrawn⟩ := attention_instants (v := s.cfg.attnAssert) (tail := tail) h01 h12
  rw [← hattn] at hquiet hattention hwithdrawn
  have hstart : firstInstant s.env.data (!s.cfg.dataIdle) t2 t3 := hdata ▸ txWave_firstInstant s.cfg.dataIdle _ _ h23
  have hhandshake : Reaches s (handshaken rest t3 s) :=
    reaches_handshaken h hphase hcommands hnow hquiet hattention hwithdrawn hstart
  have hpacket : Reaches (handshaken rest t3 s) (receivedPacket code (handshaken rest t3 s)) :=
    reaches_receivedPacket h rfl rfl hdata
  obtain ⟨hlen, -⟩ := receivedPacket_buffer (s := handshaken rest t3 s) code rfl
  obtain ⟨hcell0, hcell1, hcell2⟩ := receivedPacket_cells (s := handshaken rest t3 s) code rfl
  have hcompletes := acceptedBurstIsDecoded (receivedPacket code (handshaken rest t3 s)) code hvalid (resetDue_nil hresets) rfl
    (by rw [hlen]; decide) hcell0 hcell1 hcell2
  obtain ⟨n, hrun⟩ := (hhandshake.trans hpacket).trans (.of_step hcompletes)
  exact ⟨n, _, hrun, rfl, rfl, rfl, hlen, hcell0, hcell1, hcell2, rfl, rfl, rfl, rfl,
    receivedPacket_now code (handshaken rest t3 s)⟩

end Sys2Proof.Machine
end
